-- ==== Sys2Proof/Word.lean ====
section
/-! DEFINITION. The word types of SCFD (00_scope R17). -/

namespace Sys2Proof

/-- A byte: an unsigned 8-bit value (R17). -/
abbrev Byte := BitVec 8

/-- A u16: a storage address or a `size` operand (R17, R14). -/
abbrev Half := BitVec 16

end Sys2Proof
end

