-- ==== Sys2Proof/Config.lean ====
section
/-! DEFINITION. The constants of 00_scope R11 to R15, and the free values: what the spec leaves open
with the treatment `any value` (93_implementation_defined U1 to U4). A free value is opaque: no proof
can learn it. -/

namespace Sys2Proof

/-- The status a bus cycle returns (10_state R42): an input from the bus transport. -/
inductive CycleStatus where
  | ok
  | fail
  deriving DecidableEq, Repr, Inhabited

namespace Config

/-- `HEADER` (R11). -/
def header : Byte := 0x7E
/-- `TAIL` (R11). -/
def tail : Byte := 0x7F
/-- `MIN_FRAME_SIZE` (R11). -/
def minFrameSize : Nat := 4
/-- `MAX_FRAME_SIZE` (R11). -/
def maxFrameSize : Nat := 256
/-- `MAX_PAYLOAD = MAX_FRAME_SIZE - 4` (R11). -/
def maxPayload : Nat := 252
/-- `READ_CLAMP = MAX_FRAME_SIZE - 10` (R12). -/
def readClamp : Nat := 246
/-- The longest bus transfer any rule issues (20_memory R57). -/
def maxTransfer : Nat := 248
/-- `PROFILE_SIZE` (R13). -/
def profileSize : Nat := 64
/-- `MAX_PROFILES` (R13). -/
def maxProfiles : Nat := 4
/-- `PROFILE_BASE_ADDR` (R13). -/
def profileBase : Half := 0x100
/-- `BUS_OP_READ` (R14). -/
def busOpRead : Byte := 0x03
/-- `BUS_OP_WRITE` (R14). -/
def busOpWrite : Byte := 0x02

/-- Command codes (R15, 30_encoding R86). -/
def codeReadByte : Byte := 0x01
def codeWriteByte : Byte := 0x02
def codeReadAll : Byte := 0x03
def codeWriteAll : Byte := 0x04
def codeClear : Byte := 0x05
def codeVerify : Byte := 0x06
def codeSaveProfile : Byte := 0x07
def codeLoadProfile : Byte := 0x08

/-- Response codes (R15, 30_encoding R87). -/
def codeAck : Byte := 0x10
def codeNack : Byte := 0x11
def codeReadByteResult : Byte := 0x12
def codeReadAllResult : Byte := 0x13
def codeVerifyOk : Byte := 0x14
def codeVerifyFail : Byte := 0x15
def codeError : Byte := 0x1F

/-- Error codes (R15, 30_encoding R88). -/
def errInvalidCommand : Byte := 0x01
def errTimeout : Byte := 0x02
def errChecksum : Byte := 0x03
def errBusFailure : Byte := 0x04

/-- DESIGN CHOICE, safe (log 2). The byte an address of the store holds while nothing is known to have
been written there (20_memory R52, U4): any value, one for each address. -/
opaque initialByte : Nat → Byte

/-- DESIGN CHOICE, safe (log 23). The byte that bus cycle `n` finds, or leaves in the cell it reaches, at
an address the device has not got (U11): any value, one for each cycle and address. -/
opaque outsideByte : Nat → Nat → Byte

/-- DESIGN CHOICE (log 23). The cell that a write of bus cycle `n` to an address the device has not got
reaches (20_memory R60, R61: a platform's addresses may alias): any address, and if the device has not
got that one either, no cell. -/
opaque outsideCell : Nat → Nat → BitVec 16

/-- DESIGN CHOICE, safe (log 3, log 4). The `n`-th unspecified byte the machine draws: data of a failed
read (U1), the location of a failed or cut write (U2). -/
opaque freeByte : Nat → Byte

/-- DESIGN CHOICE, safe (log 5). The status of a bus cycle for which the input queue `answers` holds
none (U3): any value, drawn by number. -/
opaque freeStatus : Nat → CycleStatus

end Config
end Sys2Proof
end

