-- ==== Sys2Proof/Syntax.lean ====
section
/-! DEFINITION. The instructions of SCFD: one constructor for each row of `spec/opcode_table.json`
(30_encoding R102), the places an instruction's code byte can stand in, and the decoder's named
rejections. -/

namespace Sys2Proof

/-- One constructor per row of the opcode table. REQ rows are requests (R86, R89), RSP rows responses
(R87, R91), ERR rows error codes (R88), BUS rows bus cycles (R94, R93). -/
inductive Instr where
  /-- REQ 0x01 (R150). -/
  | readByte (addr : Half)
  /-- REQ 0x02 (R151). -/
  | writeByte (addr : Half) (data : Byte)
  /-- REQ 0x03 (R152); `size` as it stands in the request, before the clamp. -/
  | readAll (addr : Half) (size : Half)
  /-- REQ 0x04 (R153); the `size` field is the number of data bytes. -/
  | writeAll (addr : Half) (data : List Byte)
  /-- REQ 0x05 (R154); `size` before the clamp. -/
  | clear (size : Half)
  /-- REQ 0x06 (R155); the `size` field is the number of expected bytes. -/
  | verify (addr : Half) (expected : List Byte)
  /-- REQ 0x07 (R156). -/
  | saveProfile (id : Byte) (data : List Byte)
  /-- REQ 0x08 (R157). -/
  | loadProfile (id : Byte)
  /-- REQ, every other code (R158); the payload is carried and ignored. -/
  | unknown (code : Byte) (payload : List Byte)
  /-- RSP 0x10. -/
  | ack
  /-- RSP 0x11 with its error-code byte (R88). -/
  | nack (err : Byte)
  /-- RSP 0x12. -/
  | readByteResult (data : Byte)
  /-- RSP 0x13. -/
  | readAllResult (data : List Byte)
  /-- RSP 0x14. -/
  | verifyOk
  /-- RSP 0x15. -/
  | verifyFail
  /-- RSP 0x1F (R227): no payload layout exists, the bytes are carried as they stand. -/
  | error (payload : List Byte)
  /-- ERR 0x01 (R223). -/
  | invalidCommand
  /-- ERR 0x02 (R225). -/
  | timeout
  /-- ERR 0x03 (R226). -/
  | checksum
  /-- ERR 0x04 (R224). -/
  | busFailure
  /-- BUS 0x03 (R184): one read cycle of `len` bytes. -/
  | busRead (addr : Half) (len : Nat)
  /-- BUS 0x02 (R185): one write cycle of one byte. -/
  | busWrite (addr : Half) (data : Byte)
  deriving DecidableEq, Repr

/-- An encoded instruction: the bytes, and the place that gives the code byte its meaning (the table's
`format`; R83: the direction of travel alone tells a request from a response). For a bus cycle: the
bytes SCFD puts out and the number of bytes it takes in (R42, R93). -/
inductive Encoded where
  | request (frame : List Byte)
  | response (frame : List Byte)
  | errorCode (err : Byte)
  | busCycle (out : List Byte) (inLen : Nat)
  deriving DecidableEq, Repr

/-- Why a byte string is no instruction. The first four are the validator's checks V1 to V4 in order
(41_frame_validator R130). -/
inductive Reject where
  /-- V1: fewer than 4 bytes. -/
  | tooShort
  /-- V2: the first byte is not HEADER. -/
  | badHeader
  /-- V3: the last byte is not TAIL. -/
  | badTail
  /-- V4: the checksum byte is wrong. -/
  | badChecksum
  /-- More than 256 bytes (R81). -/
  | tooLong
  /-- The payload length is not the one the code requires (R145, R91). -/
  | payloadLength
  /-- A response code other than the seven (V6). -/
  | undefinedResponse
  /-- An error code other than the four (V5). -/
  | undefinedErrorCode
  /-- A bus opcode other than 0x03 and 0x02 (V7). -/
  | undefinedBusOpcode
  /-- A bus cycle whose header or data length is not the one of R184 or R185. -/
  | busShape
  deriving DecidableEq, Repr

/-- What the decoder answers: an instruction, or a rejection by name. -/
inductive Decoded where
  | instr (i : Instr)
  | reject (r : Reject)
  deriving DecidableEq, Repr

end Sys2Proof
end

