-- ==== Sys2Proof/Machine/Bytes.lean ====
section
/-! DEFINITION. Byte order (00_scope R17, 20_memory R53 and R54) and the frame functions that
FrameValidator, the encoder and the response builder share (30_encoding R80 to R82, 42 R148). -/

namespace Sys2Proof.Machine

/-- `BE16(h, l)`: the first byte is the more significant (R17, R53). -/
def be16 (h l : Byte) : Half := h ++ l

/-- `hi8(a) = a[15:8]` (R17). -/
def hi8 (a : Half) : Byte := a.extractLsb' 8 8

/-- `lo8(a) = a[7:0]` (R17). -/
def lo8 (a : Half) : Byte := a.extractLsb' 0 8

/-- The byte at index `k` of a byte string. -/
def byteAt (s : List Byte) (k : Nat) : Byte := s.getD k 0

/-- The 16-bit field at offsets `k`, `k+1` (R53). -/
def halfAt (s : List Byte) (k : Nat) : Half := be16 (byteAt s k) (byteAt s (k + 1))

/-- `xor_fold` (R17, R134). -/
def xorFold (s : List Byte) : Byte := s.foldl (fun a b => a ^^^ b) 0

/-- `build_frame(code, payload)` (42_command_dispatcher R148; 30_encoding R80, R82, R99). -/
def buildFrame (code : Byte) (payload : List Byte) : List Byte :=
  let body := Config.header :: code :: payload
  body ++ [xorFold body, Config.tail]

/-- The first of the checks V1 to V4 that fails, in that order (41_frame_validator R130, 42 R146); the
checksum stands at `n-2` and covers the bytes before it (90_conflicts C1). -/
def firstFailure (f : List Byte) : Option Reject :=
  let n := f.length
  if n < Config.minFrameSize then some .tooShort
  else if byteAt f 0 ≠ Config.header then some .badHeader
  else if byteAt f (n - 1) ≠ Config.tail then some .badTail
  else if xorFold (f.take (n - 2)) ≠ byteAt f (n - 2) then some .badChecksum
  else none

/-- `validate(f)` (R130). -/
def validate (f : List Byte) : Bool := (firstFailure f).isNone

/-- The code byte of a frame: offset 1 (R80, R143). -/
def frameCode (f : List Byte) : Byte := byteAt f 1

/-- The payload of a frame: offsets `2 .. n-3` (R80, R143). -/
def framePayload (f : List Byte) : List Byte := (f.drop 2).take (f.length - 4)

end Sys2Proof.Machine
end

