-- ==== Sys2Proof/Machine/Operands.lean ====
section
/-! DEFINITION. The operand forms of the requests (30_encoding R89, R92): each field's place in the
payload, the length checks of 42_command_dispatcher R145, the clamp of R159 and the profile address of
44_profile_store R200. -/

namespace Sys2Proof.Machine

/-- A 16-bit operand as its two payload bytes, big-endian (R53). -/
def halfBytes (a : Half) : List Byte := [hi8 a, lo8 a]

/-- The `addr` operand: payload offsets 0 and 1 (R89). -/
def addrField (p : List Byte) : Half := halfAt p 0

/-- The `size` operand of ReadAll, WriteAll and Verify: payload offsets 2 and 3 (R89). -/
def sizeField (p : List Byte) : Half := halfAt p 2

/-- The `size` operand of Clear: payload offsets 0 and 1 (R89). -/
def clearSizeField (p : List Byte) : Half := halfAt p 0

/-- The `id` operand: payload offset 0 (R89). -/
def idField (p : List Byte) : Byte := byteAt p 0

/-- The length check of WriteAll and Verify: at least 4 bytes, and the `size` field is the number of
bytes after it, tested without a 16-bit sum (R145). -/
def blockLengthOk (p : List Byte) : Bool :=
  4 ≤ p.length && (sizeField p).toNat = p.length - 4

/-- `clamp(size) = min(size, 246)` (R159). -/
def clamp (size : Half) : Half :=
  if size.toNat ≤ Config.readClamp then size else BitVec.ofNat 16 Config.readClamp

/-- `address(id) = 0x100 + 64*id` (R200); used only for `id < 4` (R204). -/
def profileAddress (id : Byte) : Half :=
  Config.profileBase + BitVec.ofNat 16 (Config.profileSize * id.toNat)

/-- `id < MAX_PROFILES`, unsigned (R156, R204). -/
def validProfile (id : Byte) : Bool := id.toNat < Config.maxProfiles

/-- `addr + i` inside a block, mod 2^16 (20_memory R61). -/
def blockAddr (addr : Half) (i : Nat) : Half := addr + BitVec.ofNat 16 i

end Sys2Proof.Machine
end

