-- ==== Sys2Proof/Machine/State.lean ====
section
/-! DEFINITION. The state of SCFD as plain data: every register of 10_state R48, the environment state
of R44, and the model's own fields (INVENTORY.md, State). -/

namespace Sys2Proof.Machine

/-- `asm_state` (R26). -/
inductive AsmState where
  | waitingForHeader
  | collecting
  deriving DecidableEq, Repr

/-- `disp_state` (R30). -/
inductive DispState where
  | idle
  | validate
  | decode
  | busAcquire
  | busRun
  | respond
  | txAcquire
  | txRun
  | finish
  deriving DecidableEq, Repr

/-- `bus_status` (R34). -/
inductive BusStatus where
  | ok
  | fail
  | timedOut
  deriving DecidableEq, Repr

/-- Who can hold a lock (R36, R37). -/
inductive Owner where
  | dispatcher
  | external
  deriving DecidableEq, Repr

/-- `bus_lock`, `tx_lock` (R36, R37). -/
inductive Lock where
  | free
  | heldBy (o : Owner)
  deriving DecidableEq, Repr

/-- `cs` (R38). -/
inductive ChipSelect where
  | deasserted
  | asserted
  deriving DecidableEq, Repr

/-- A 256-byte buffer register: `asm_buf`, `frame_buf`, `data_buf`, `resp_buf` (R22, R27, R32, R33). -/
abbrev Buf := Vector Byte 256

/-- The bus primitive of a plan (43_bus_gateway, section 3); the `_byte` primitives are the block ones
with one byte (R186, R188, D25). With its arguments it is the BusTransaction tuple of R31. -/
inductive Primitive where
  | readBlock (addr : Half) (n : Nat)
  | writeBlock (addr : Half) (data : List Byte)
  deriving DecidableEq, Repr

/-- How a command's rule chooses its response once its primitive has ended Ok (R150 to R157). -/
inductive ReplyRule where
  /-- Ack. -/
  | ack
  /-- ReadByteResult with `data_buf[0]`. -/
  | readByteResult
  /-- ReadAllResult with `data_buf[0 .. n)`. -/
  | readAllResult (n : Nat)
  /-- VerifyOk if `data_buf` begins with the expected bytes, else VerifyFail. -/
  | verify (expected : List Byte)
  deriving DecidableEq, Repr

/-- `plan` of 42_command_dispatcher R163: answer at once, or run a bus primitive first. -/
inductive Plan where
  | reply (code : Byte) (payload : List Byte)
  | bus (prim : Primitive) (rule : ReplyRule)
  deriving DecidableEq, Repr

/-- One bus cycle: a read of `n` bytes or a write of one byte (R184, R185). -/
inductive BusOp where
  | read (addr : Half) (n : Nat)
  | write (addr : Half) (data : Byte)
  deriving DecidableEq, Repr

/-- A bus cycle in progress (R182): `pos` bytes of header and payload have passed, and `status` is what
the transport will return, which SCFD sees only when the cycle ends (R42). -/
structure BusCycle where
  op : BusOp
  pos : Nat
  status : CycleStatus
  deriving DecidableEq, Repr

/-- The observable events (10_state R42, R43, R45; 95_test_vectors 2.12). -/
inductive Obs where
  | acqBus
  | relBus
  | acqTx
  | relTx
  | extAcqBus
  | extRelBus
  | extAcqTx
  | extRelTx
  | csAssert
  | busOut (b : Byte)
  | busIn (b : Byte)
  | csDeassert
  | cycleStatus (st : CycleStatus)
  | settle
  | tx (b : Byte)
  deriving DecidableEq, Repr

/-- What the RX agent and the environment can do (10_state R20, R40 to R43; 70_reset_and_hazards R251,
R260; 43_bus_gateway R193). -/
inductive EnvEvent where
  /-- One received byte (R40). -/
  | rx (b : Byte)
  /-- An external bus master takes or releases `bus_lock` (R36). -/
  | extAcquireBus
  | extReleaseBus
  /-- An external outbound user takes or releases `tx_lock` (R37). -/
  | extAcquireTx
  | extReleaseTx
  /-- The external bus master changes a byte of the store (R68). -/
  | extStore (a : Half) (v : Byte)
  /-- The bounded wait for `bus_lock` expires (R193 i). -/
  | waitExpires
  /-- The bounded wait for a bus transfer expires (R193 ii). -/
  | transferExpires
  /-- The bus transport stalls or serves again (R260). -/
  | setBusReady (ready : Bool)
  /-- The serial transport stalls or takes bytes again (R260). -/
  | setTxReady (ready : Bool)
  /-- Reset at any moment (R251), also a power cycle (60_exceptions R239). -/
  | reset
  deriving DecidableEq, Repr

/-- Who takes the next turn. -/
inductive Turn where
  | dispatcher
  | env (e : EnvEvent)
  deriving DecidableEq, Repr

/-- The open parameters of 00_scope R16 that a rule's outcome depends on; constant in every run. -/
structure Params where
  /-- `BUS_WAIT_LIMIT`: none, or a duration. Only whether it is set matters (R236). -/
  busWaitLimit : Option Nat
  /-- `HAS_EXTERNAL_BUS_MASTER`. -/
  hasExternalBusMaster : Bool
  /-- `HAS_EXTERNAL_TX_USER`. -/
  hasExternalTxUser : Bool
  /-- `STORE_SIZE`: the device has the addresses below it (R52, U11; log 23). -/
  storeSize : Nat
  deriving DecidableEq, Repr

/-- The storage peripheral's bytes (20_memory R52): the cells known to hold a value, addresses strictly
rising. An address that is not listed holds `Config.initialByte` of it (log 2). -/
abbrev Store := List Host.Cell

/-- The whole machine (R21: all state is one record). -/
structure State where
  /-- `asm_state` (R26). -/
  asmState : AsmState
  /-- `asm_len`, 0 to 256 (R23). -/
  asmLen : Nat
  /-- `asm_buf` (R22). -/
  asmBuf : Buf
  /-- `frame_ready` (R29). -/
  frameReady : Bool
  /-- `frame_len`, 4 to 256 while `frame_ready` (R28). -/
  frameLen : Nat
  /-- `frame_buf` (R27). -/
  frameBuf : Buf
  /-- `disp_state` (R30). -/
  dispState : DispState
  /-- `req_code` (R31). -/
  reqCode : Byte
  /-- `req_plen`, 0 to 252 (R31). -/
  reqPlen : Nat
  /-- `req_addr` (R31). -/
  reqAddr : Half
  /-- `req_size`, after clamping (R31). -/
  reqSize : Half
  /-- `req_id` (R31). -/
  reqId : Byte
  /-- `data_buf` (R32). -/
  dataBuf : Buf
  /-- `resp_buf` (R33). -/
  respBuf : Buf
  /-- `resp_len`, 4 to 250 (R33). -/
  respLen : Nat
  /-- `bus_status` (R34). -/
  busStatus : BusStatus
  /-- `blk_index`, 0 to 256 (R35). -/
  blkIndex : Nat
  /-- `tx_index`, 0 to 250 (R35). -/
  txIndex : Nat
  /-- `bus_lock` (R36). -/
  busLock : Lock
  /-- `tx_lock` (R37). -/
  txLock : Lock
  /-- `cs` (R38). -/
  cs : ChipSelect
  /-- `settling` (R38). -/
  settling : Bool
  /-- `store` of the storage peripheral (R44, R52). -/
  store : Store
  /-- The model's own: `plan` of R163 (log 9). -/
  plan : Plan
  /-- The model's own: the bus cycle in progress (log 9). -/
  cycle : Option BusCycle
  /-- The model's own: the primitive's read cycle has been made (log 9). -/
  readDone : Bool
  /-- The model's own: the open parameters (log 6). -/
  params : Params
  /-- The model's own: the bus transport is serving (log 15). -/
  busReady : Bool
  /-- The model's own: the serial transport is taking bytes (log 15). -/
  txReady : Bool
  /-- The model's own: the turns to come; when it is empty the dispatcher moves (log 7). -/
  schedule : List Turn
  /-- The model's own: the statuses of the bus cycles to come (log 5). -/
  answers : List CycleStatus
  /-- The model's own: how many bus cycles and free values have been drawn (log 3). -/
  draws : Nat
  /-- The model's own: the observable events so far, oldest first (log 10). -/
  trace : List Obs
  deriving DecidableEq, Repr

/-- SCFD never stops: every abnormal outcome ends in silence or in a Nack and the machine goes on
(60_exceptions R220). So no step faults and this type has no constructor. -/
inductive Fault where
  deriving DecidableEq, Repr

/-- Why an instruction is refused. All are safe: the machine stops where the spec orders that the thing
be never produced. -/
inductive Refusal where
  /-- Raised by an arm of `exec` that has no meaning yet. Safe. -/
  | notModelled (mnemonic : String)
  /-- Raised by Error: the response 0x1F is never sent and has no payload (60_exceptions R227). Safe. -/
  | errorResponseNeverSent
  /-- Raised by Nack and Timeout for an error code that is never sent: 0x00, 0x03, 0x05 to 0xFF, and
  0x02 without BUS_WAIT_LIMIT (60_exceptions R225, R226; 93_implementation_defined V3 to V5). Safe. -/
  | errorCodeNeverSent (code : Byte)
  /-- Raised by the step when the chosen response is none of the seven (93_implementation_defined V6);
  no reachable state chooses one. Safe. -/
  | responseNotDefined
  deriving DecidableEq, Repr

/-- A buffer of zeros: the DESIGN CHOICE of log 1. -/
def zeroBuf : Buf := Vector.replicate 256 0

/-- The machine right after reset (70_reset_and_hazards R250). The registers R250 leaves unspecified
hold zeros, `bus_status` Ok (DESIGN CHOICE, log 1). -/
def State.reset : State where
  asmState := .waitingForHeader
  asmLen := 0
  asmBuf := zeroBuf
  frameReady := false
  frameLen := 0
  frameBuf := zeroBuf
  dispState := .idle
  reqCode := 0
  reqPlen := 0
  reqAddr := 0
  reqSize := 0
  reqId := 0
  dataBuf := zeroBuf
  respBuf := zeroBuf
  respLen := 0
  busStatus := .ok
  blkIndex := 0
  txIndex := 0
  busLock := .free
  txLock := .free
  cs := .deasserted
  settling := false
  store := []
  plan := .reply Config.codeNack [Config.errInvalidCommand]
  cycle := none
  readDone := false
  params := { busWaitLimit := none, hasExternalBusMaster := false, hasExternalTxUser := false,
              storeSize := 65536 }
  busReady := true
  txReady := true
  schedule := []
  answers := []
  draws := 0
  trace := []

end Sys2Proof.Machine
end

