-- ==== Sys2Proof/Machine/Ops.lean ====
section
/-! DEFINITION. The named operations over the store, the buffers, the locks and the trace, and the
abnormal outcomes: `Nack(e)` and `Drop` (60_exceptions R221, R222), which take the place of exceptions,
with the end of the cycle, which takes the place of a return (R233). -/

namespace Sys2Proof.Machine

/-! ## The store (20_memory R52) -/

/-- The cell at address `a`, if one is listed. -/
def storeLookup : Store → Nat → Option Byte
  | [], _ => none
  | (b, v) :: r, a => if a = b then some v else storeLookup r a

/-- What the store holds at `a`: the listed byte, else the unspecified initial byte of that address
(log 2). -/
def storeRead (m : Store) (a : Half) : Byte := (storeLookup m a.toNat).getD (Config.initialByte a.toNat)

/-- The store with byte `v` at address `a`, addresses kept strictly rising. -/
def storeInsert (a : Nat) (v : Byte) : Store → Store
  | [] => [(a, v)]
  | (b, w) :: r =>
    if a < b then (a, v) :: (b, w) :: r
    else if a = b then (a, v) :: r
    else (b, w) :: storeInsert a v r

/-- `store[a] <- v` (R52). -/
def storeWrite (m : Store) (a : Half) (v : Byte) : Store := storeInsert a.toNat v m

/-! ## The device behind the bus (00_scope R16 `STORE_SIZE`, U11; log 23) -/

/-- The device has the address `a`. -/
def inDevice (p : Params) (a : Half) : Bool := a.toNat < p.storeSize

/-- What bus cycle `n` finds at `a`: the store's byte (R52), or any byte where the device has no such
address. -/
def deviceRead (p : Params) (n : Nat) (m : Store) (a : Half) : Byte :=
  if inDevice p a then storeRead m a else Config.outsideByte n a.toNat

/-- The address whose cell a write of bus cycle `n` to `a` reaches: `a` itself (R52), or any address where
the device has not got `a`. -/
def deviceCell (p : Params) (n : Nat) (a : Half) : Half :=
  if inDevice p a then a else Config.outsideCell n a.toNat

/-- The store after bus cycle `n` has written `v` to `a`: `store[a] <- v` (R52). Where the device has not
got `a`, at most one cell changes, to any byte. -/
def deviceWrite (p : Params) (n : Nat) (m : Store) (a : Half) (v : Byte) : Store :=
  if inDevice p (deviceCell p n a) then
    storeWrite m (deviceCell p n a) (if inDevice p a then v else Config.outsideByte n a.toNat)
  else m

/-- What bus cycle `n` finds at `a`, `a+1`, .. mod 2^16 (R52, R61). -/
def deviceReadBlock (p : Params) (n : Nat) (m : Store) (a : Half) (k : Nat) : List Byte :=
  (List.range k).map fun i => deviceRead p n m (blockAddr a i)

/-- The store after the bus cycles `n`, `n+1`, .. have written the bytes of `data` one by one in ascending
order (R61, R153). -/
def deviceWriteBlock (p : Params) (n : Nat) (m : Store) (a : Half) (data : List Byte) : Store :=
  (data.zipIdx).foldl (fun acc q => deviceWrite p (n + q.2) acc (blockAddr a q.2) q.1) m

/-! ## The canonical form -/

/-- The canonical form of the store, from a lower bound on its first address. -/
def storeWfFrom : Nat → Store → Bool
  | _, [] => true
  | lo, (a, _) :: r => lo ≤ a && a < 65536 && storeWfFrom (a + 1) r

/-- The canonical form: addresses strictly rising and below 65536. An unlisted address reads as no known
value, so no entry can equal what an unlisted address reads as (log 2). -/
def Memory.wf (m : Store) : Bool := storeWfFrom 0 m

/-! ## Buffers -/

/-- `x[0 .. n)`. -/
def bufPrefix (b : Buf) (n : Nat) : List Byte := b.toList.take n

/-- `x[i]`. -/
def bufGet (b : Buf) (i : Nat) : Byte := b.toList.getD i 0

/-- `x[i] <- v`; an index outside the buffer writes nothing. -/
def bufSet (b : Buf) (i : Nat) (v : Byte) : Buf := b.setIfInBounds i v

/-- `x[i] <- s[i]` for `0 <= i < |s|`; the bytes from `|s|` on stay as they were. -/
def bufOverwrite (b : Buf) (s : List Byte) : Buf :=
  ⟨(s.take 256 ++ b.toList.drop s.length).toArray, by simp; omega⟩

/-! ## Trace and free values -/

/-- Append observable events (R45). -/
def observe (es : List Obs) (s : State) : State := { s with trace := s.trace ++ es }

/-- `store[a]` becomes unspecified (R59, U2): any byte value, the old one included. -/
def storeUnspecified (a : Half) (s : State) : State :=
  { s with store := deviceWrite s.params s.draws s.store a (Config.freeByte s.draws),
           draws := s.draws + 1 }

/-- `n` unspecified bytes, drawn from number `d` on (R59, U1). -/
def freeBytes (n d : Nat) : List Byte := (List.range n).map fun i => Config.freeByte (d + i)

/-- The status of the next bus cycle (R42, U3): the next input, or a free value when there is none. -/
def nextStatus (s : State) : CycleStatus :=
  match s.answers with
  | [] => Config.freeStatus s.draws
  | st :: _ => st

/-- The state after that status has been drawn. Every bus cycle has a number of its own in `draws`. -/
def popStatus (s : State) : State := { s with answers := s.answers.tail, draws := s.draws + 1 }

/-! ## The hand-off slot -/

/-- The frame in the hand-off slot: `frame_buf[0 .. frame_len)`. -/
def slotFrame (s : State) : List Byte := bufPrefix s.frameBuf s.frameLen

/-- Latch `req_code` and `req_plen` from the slot (R143, R163 `Decode`). -/
def latchHeader (s : State) : State :=
  { s with reqCode := frameCode (slotFrame s), reqPlen := s.frameLen - 4 }

/-! ## Locks (43_bus_gateway R180, R181; 45_response_sender R212) -/

/-- Take `bus_lock` and enter `BusRun` (R163, R180, R187). -/
def acquireBus (s : State) : State :=
  observe [.acqBus] { s with busLock := .heldBy .dispatcher, busStatus := .ok, blkIndex := 0,
                             readDone := false, dispState := .busRun }

/-- Release `bus_lock` if the dispatcher holds it (R181, R222). -/
def releaseBus (s : State) : State :=
  if s.busLock = .heldBy .dispatcher then observe [.relBus] { s with busLock := .free } else s

/-- Take `tx_lock` and enter `TxRun` (R163, R210). -/
def acquireTx (s : State) : State :=
  observe [.acqTx] { s with txLock := .heldBy .dispatcher, txIndex := 0, dispState := .txRun }

/-- Release `tx_lock` (R210). -/
def releaseTx (s : State) : State :=
  observe [.relTx] { s with txLock := .free, dispState := .finish }

/-! ## Taking an abnormal outcome, and returning from it -/

/-- `raise Nack(e)` (60_exceptions R222): the response becomes `build_frame(0x11, [e])`, the remaining
actions of the command are skipped, `bus_lock` is released if it is held, and the dispatcher goes on in
`Respond` exactly as for a success. Nothing is saved (R232). -/
def raiseNack (e : Byte) (s : State) : State :=
  { releaseBus s with plan := .reply Config.codeNack [e], dispState := .respond }

/-- `raise Drop` (60_exceptions R221, 42 R142): only `frame_ready` and `disp_state` change (R232). -/
def dropFrame (s : State) : State := { s with frameReady := false, dispState := .idle }

/-- The end of the protocol cycle (42 R161), which is the return from every outcome (60 R233). -/
def endCycle (s : State) : State := { s with frameReady := false, dispState := .idle }

/-- Reset in any state (70_reset_and_hazards R251, R253; log 11): the byte of a cut write cycle becomes
unspecified, chip-select is deasserted, the dispatcher's locks become free, an external holder keeps
its lock, and the store, the inputs to come and the events so far stay. DESIGN CHOICE (log 27): a write
cycle is cut only until its deselect, so a reset during the settle delay of a good write leaves the byte
written. DESIGN CHOICE (log 28): a transport that is stalled stays stalled, since R252 leaves to the
platform that it serves. -/
def resetMachine (s : State) : State :=
  let cut := match s.cycle with
    | some { op := .write a _, .. } => storeUnspecified a s
    | _ => s
  let kept (l : Lock) : Lock := if l = .heldBy .dispatcher then .free else l
  { State.reset with
    busLock := kept s.busLock
    txLock := kept s.txLock
    store := cut.store
    params := s.params
    busReady := s.busReady
    txReady := s.txReady
    schedule := s.schedule
    answers := s.answers
    draws := cut.draws
    trace := s.trace ++ (if s.cs = .asserted then [.csDeassert] else []) }

end Sys2Proof.Machine
end

