-- ==== Sys2Proof/Machine/Assembler.lean ====
section
/-! DEFINITION. FrameAssembler: `push_byte` and the hand-off (40_frame_assembler R110 to R118). -/

namespace Sys2Proof.Machine

/-- The hand-off of the `n` bytes collected: into the slot if it is free (R117), else the new frame is
discarded without trace (R118). -/
def handOff (n : Nat) (s : State) : State :=
  if s.frameReady then s
  else { s with frameBuf := bufOverwrite s.frameBuf (bufPrefix s.asmBuf n), frameLen := n,
                frameReady := true }

/-- "Discard buffer" and "return to WaitingForHeader" (R23, R113, R116). -/
def asmRestart (s : State) : State := { s with asmLen := 0, asmState := .waitingForHeader }

/-- `push_byte(b)` (R110), the cases W-skip, W-start, C-overflow, C-append and C-complete. -/
def pushByte (b : Byte) (s : State) : State :=
  match s.asmState with
  | .waitingForHeader =>
    if b ≠ Config.header then s
    else { s with asmBuf := bufSet s.asmBuf 0 b, asmLen := 1, asmState := .collecting }
  | .collecting =>
    if s.asmLen + 1 > Config.maxFrameSize then asmRestart s
    else
      let s1 := { s with asmBuf := bufSet s.asmBuf s.asmLen b, asmLen := s.asmLen + 1 }
      if b = Config.tail ∧ Config.minFrameSize ≤ s1.asmLen then asmRestart (handOff s1.asmLen s1)
      else s1

end Sys2Proof.Machine
end

