-- ==== Sys2Proof/Machine/Flags.lean ====
section
/-! DEFINITION. SCFD has no flag register and no command writes a flag (10_state R47, 42 preamble). The
status it has instead is `bus_status`; this file gives what is computed from it: the response of a
finished command (42_command_dispatcher R147 and the last lines of R150 to R157). -/

namespace Sys2Proof.Machine

/-- The response a command's rule gives when its primitive ended Ok (R150 to R157), as code and
payload. Verify compares the whole block after it has been read (R155, D28). -/
def ruleResponse (rule : ReplyRule) (data : Buf) : Byte × List Byte :=
  match rule with
  | .ack => (Config.codeAck, [])
  | .readByteResult => (Config.codeReadByteResult, [bufGet data 0])
  | .readAllResult n => (Config.codeReadAllResult, bufPrefix data n)
  | .verify expected =>
    if bufPrefix data expected.length = expected then (Config.codeVerifyOk, [])
    else (Config.codeVerifyFail, [])

/-- The response of `Respond` (R163): from `plan`, `bus_status` and `data_buf`. A failed primitive is
Nack(BusFailure) for every command, an expired wait Nack(Timeout) (R147). -/
def chooseResponse (s : State) : Byte × List Byte :=
  match s.plan with
  | .reply code payload => (code, payload)
  | .bus _ rule =>
    match s.busStatus with
    | .ok => ruleResponse rule s.dataBuf
    | .fail => (Config.codeNack, [Config.errBusFailure])
    | .timedOut => (Config.codeNack, [Config.errTimeout])

/-- The error codes SCFD can send: InvalidCommand, BusFailure, and Timeout only with BUS_WAIT_LIMIT
(R88, R96, R214, R225). -/
def errorCodeSent (p : Params) (e : Byte) : Bool :=
  e = Config.errInvalidCommand || e = Config.errBusFailure ||
    (e = Config.errTimeout && p.busWaitLimit.isSome)

end Sys2Proof.Machine
end

