-- ==== Sys2Proof/Machine/Gateway.lean ====
section
/-! DEFINITION. BusGateway: the bus cycles and the four primitives (43_bus_gateway R182 to R192). -/

namespace Sys2Proof.Machine

/-- The bytes SCFD puts out in a cycle: the header `opcode, hi8(addr), lo8(addr)` (R183), and the data
byte of a write (R185). -/
def busOutBytes : BusOp → List Byte
  | .read a _ => Config.busOpRead :: halfBytes a
  | .write a d => Config.busOpWrite :: halfBytes a ++ [d]

/-- `read_byte(addr)` is `read_block(addr, 1)` (R186, D25). -/
def readBytePrim (a : Half) : Primitive := .readBlock a 1

/-- `write_byte(addr, d)` is `write_block(addr, [d])` (R188). -/
def writeBytePrim (a : Half) (d : Byte) : Primitive := .writeBlock a [d]

/-- The next cycle of a primitive: one read cycle for a whole block (R186), one write cycle for each
byte with its own address (R187), none for a zero length (R192). -/
def nextCycle (p : Primitive) (blk : Nat) (readDone : Bool) : Option BusOp :=
  match p with
  | .readBlock a n => if n = 0 || readDone then none else some (.read a n)
  | .writeBlock a data => if blk < data.length then some (.write (blockAddr a blk) (byteAt data blk)) else none

/-- The next cycle the dispatcher issues in `BusRun`: none after a failed one (R190, R191). -/
def nextOp (s : State) : Option BusOp :=
  match s.plan with
  | .reply _ _ => none
  | .bus p _ => if s.busStatus = .ok then nextCycle p s.blkIndex s.readDone else none

/-- Select (R182): assert chip-select and begin the cycle. SCFD drives no bus cycle unless it holds
`bus_lock` (10_state R36). The transport's status is drawn here and seen at the end (R42, log 24).
DESIGN CHOICE (log 26): a stalled bus transport does not hold the select back; it blocks what follows. -/
def selectCycle (op : BusOp) (s : State) : State :=
  if s.busLock = .heldBy .dispatcher then
    observe [.csAssert]
      { popStatus s with cs := .asserted, cycle := some { op := op, pos := 0, status := nextStatus s } }
  else s

/-- One data byte of a read cycle comes in (R184): the device's byte if the cycle's status is Ok, an
unspecified byte if it is Fail (R59, U1). -/
def inputByte (c : BusCycle) (a : Half) (k : Nat) (s : State) : State :=
  let d := match c.status with
    | .ok => deviceRead s.params s.draws s.store (blockAddr a k)
    | .fail => Config.freeByte s.draws
  let used := match c.status with
    | .ok => 0
    | .fail => 1
  observe [.busIn d]
    { s with dataBuf := bufSet s.dataBuf k d, cycle := some { c with pos := c.pos + 1 },
             draws := s.draws + used }

/-- Deselect and take the status (R182, R190). A good write has written its byte and starts the settle
delay (R185, R189); after a failed write the byte is unspecified (R59) and no settle delay follows
(U10, log 12). -/
def finishCycle (c : BusCycle) (s : State) : State :=
  let s1 := observe [.csDeassert, .cycleStatus c.status] { s with cs := .deasserted, cycle := none }
  match c.op, c.status with
  | .read _ _, .ok => { s1 with readDone := true }
  | .read _ _, .fail => { s1 with busStatus := .fail }
  | .write a d, .ok => { s1 with store := deviceWrite s1.params s1.draws s1.store a d, settling := true }
  | .write a _, .fail => { storeUnspecified a s1 with busStatus := .fail }

/-- What a read returned is unspecified, the bytes already clocked in included (R190, R59, U1). -/
def spoilRead (op : BusOp) (s : State) : State :=
  match op with
  | .read _ n => { s with dataBuf := bufOverwrite s.dataBuf (freeBytes n s.draws), draws := s.draws + n }
  | .write _ _ => s

/-- The transport ends the cycle in progress because its bound has expired (R193 ii): the status is Fail
and the cycle is cut where it stands (log 24). -/
def expireCycle (c : BusCycle) (s : State) : State :=
  finishCycle { c with status := .fail } (spoilRead c.op s)

/-- One event of the cycle in progress: a byte out, a byte in, or the deselect (R182 to R185). -/
def cycleTurn (c : BusCycle) (s : State) : State :=
  let out := busOutBytes c.op
  if c.pos < out.length then
    observe [.busOut (byteAt out c.pos)] { s with cycle := some { c with pos := c.pos + 1 } }
  else
    match c.op with
    | .read a n => if c.pos - out.length < n then inputByte c a (c.pos - out.length) s else finishCycle c s
    | .write _ _ => finishCycle c s

/-- The settle delay has passed: the write cycle of this byte has completed (R187, R189). -/
def endSettle (s : State) : State :=
  observe [.settle] { s with settling := false, blkIndex := s.blkIndex + 1 }

/-- The primitive has ended: release the lock and go on in `Respond` (R163, R181). -/
def endPrimitive (s : State) : State := { releaseBus s with dispState := .respond }

end Sys2Proof.Machine
end

