-- ==== Sys2Proof/Machine/Sender.lean ====
section
/-! DEFINITION. The response: `resp_buf <- build_frame(...)` and ResponseSender (42 R148, R163; 45 R210,
R211). -/

namespace Sys2Proof.Machine

/-- `resp_buf, resp_len <- build_frame(code, payload)` (R163 `Respond`). DESIGN CHOICE (log 22): the bytes
of `resp_buf` from `resp_len` on, which may hold any value (U5), stay as they were. -/
def respondWith (code : Byte) (payload : List Byte) (s : State) : State :=
  { s with respBuf := bufOverwrite s.respBuf (buildFrame code payload),
           respLen := (buildFrame code payload).length, dispState := .txAcquire }

/-- `emit TX(resp_buf[tx_index])` (R211). -/
def emitByte (s : State) : State :=
  observe [.tx (bufGet s.respBuf s.txIndex)] { s with txIndex := s.txIndex + 1 }

end Sys2Proof.Machine
end

