-- ==== Sys2Proof/Machine/Turns.lean ====
section
/-! DEFINITION. The turns of the agents: one action of the dispatcher (42_command_dispatcher R163), one
event of the RX agent or the environment (10_state R20), and a run of turns. -/

namespace Sys2Proof.Machine

/-- One turn of the dispatcher: one row of R163, each bus event and each TX byte a turn of its own. A
row whose guard is false leaves the state as it is. The row `Decode` is the request's own meaning
(`exec`), so here it does nothing; no run that `exec` starts passes through it (log 8). DESIGN CHOICE
(log 26): a stalled bus transport blocks every turn of a cycle after its select, and nothing else. -/
def dispatcherTurn (s : State) : State :=
  if s.settling then endSettle s
  else
    match s.cycle with
    | some c => if s.busReady then cycleTurn c s else s
    | none =>
      match s.dispState with
      | .idle => if s.frameReady then { s with dispState := .validate } else s
      | .validate => if validate (slotFrame s) then { s with dispState := .decode } else dropFrame s
      | .decode => s
      | .busAcquire => if s.busLock = .free then acquireBus s else s
      | .busRun =>
        match nextOp s with
        | some op => selectCycle op s
        | none => endPrimitive s
      | .respond => respondWith (chooseResponse s).1 (chooseResponse s).2 s
      | .txAcquire => if s.txLock = .free then acquireTx s else s
      | .txRun =>
        if s.txIndex < s.respLen then (if s.txReady then emitByte s else s) else releaseTx s
      | .finish => endCycle s

/-- The expiry of the wait for `bus_lock` is enabled whenever the dispatcher is waiting and
BUS_WAIT_LIMIT is set (R193, log 13). -/
def waitExpiryEnabled (s : State) : Bool := s.dispState = .busAcquire && s.params.busWaitLimit.isSome

/-- One event of the RX agent or the environment. An event that is not enabled has no effect (log 14). -/
def envAct (e : EnvEvent) (s : State) : State :=
  match e with
  | .rx b => pushByte b s
  | .extAcquireBus =>
    if s.params.hasExternalBusMaster ∧ s.busLock = .free then
      observe [.extAcqBus] { s with busLock := .heldBy .external } else s
  | .extReleaseBus =>
    if s.busLock = .heldBy .external then observe [.extRelBus] { s with busLock := .free } else s
  | .extAcquireTx =>
    if s.params.hasExternalTxUser ∧ s.txLock = .free then
      observe [.extAcqTx] { s with txLock := .heldBy .external } else s
  | .extReleaseTx =>
    if s.txLock = .heldBy .external then observe [.extRelTx] { s with txLock := .free } else s
  | .extStore a v =>
    if s.busLock = .heldBy .external ∧ inDevice s.params a then
      { s with store := storeWrite s.store a v } else s
  | .waitExpires =>
    if waitExpiryEnabled s then { s with busStatus := .timedOut, dispState := .respond } else s
  | .transferExpires =>
    match s.cycle with
    | some c => if s.params.busWaitLimit.isSome then expireCycle c s else s
    | none => s
  | .setBusReady r => { s with busReady := r }
  | .setTxReady r => { s with txReady := r }
  | .reset => resetMachine s

/-- The next turn: the one the schedule names, or the dispatcher's when it names none (log 7). -/
def turn (s : State) : State :=
  match s.schedule with
  | [] => dispatcherTurn s
  | .dispatcher :: r => dispatcherTurn { s with schedule := r }
  | .env e :: r => envAct e { s with schedule := r }

/-- Turns until `stop` holds, at most `fuel` of them. -/
def runUntil (stop : State → Bool) : Nat → State → State
  | 0, s => s
  | fuel + 1, s => if stop s then s else runUntil stop fuel (turn s)

/-- More turns than any protocol cycle needs that is not stalled: each turn of the schedule once, and
the dispatcher's own turns, of which a cycle has fewer than 4096 (log 8). -/
def cycleFuel (s : State) : Nat := 4096 + s.schedule.length

/-- The protocol cycle from here to its end (42 R140, R161): until the dispatcher is in `Idle` again. A
cycle that is stalled with no turn scheduled that could free it is left where it waits (70 R260). -/
def runCycle (s : State) : State := runUntil (fun t => t.dispState = .idle) (cycleFuel s) s

/-- The bus cycle in progress to its end, the settle delay of a write included (43 R182). -/
def runBusCycle (s : State) : State :=
  runUntil (fun t => t.cycle.isNone && !t.settling) (cycleFuel s) s

end Sys2Proof.Machine
end

