-- ==== Sys2Proof/Machine/BusCycles.lean ====
section
/-! DEFINITION. The two bus cycles (43_bus_gateway R182, R184, R185): select, header, payload, deselect,
and the settle delay of a write. Without `bus_lock` SCFD drives no bus cycle (10_state R36, log 20). -/

namespace Sys2Proof.Machine

/-- BUS_READ: `MemRead(addr, n)` (R184). -/
def execBusRead (a : Half) (n : Nat) (s : State) : Host.Outcome State Fault Refusal :=
  .next (runBusCycle (selectCycle (.read a n) s))

/-- BUS_WRITE: `MemWrite(addr, 1, d)` (R185). -/
def execBusWrite (a : Half) (d : Byte) (s : State) : Host.Outcome State Fault Refusal :=
  .next (runBusCycle (selectCycle (.write a d) s))

end Sys2Proof.Machine
end

