-- ==== Sys2Proof/Machine/Errors.lean ====
section
/-! DEFINITION. The four error codes where they are raised (60_exceptions R221 to R226). -/

namespace Sys2Proof.Machine

/-- InvalidCommand (R223): raised before any bus access. -/
def execInvalidCommand (s : State) : Host.Outcome State Fault Refusal :=
  .next (runCycle (raiseNack Config.errInvalidCommand s))

/-- Timeout (R225): the wait for `bus_lock` has expired and no bus cycle has been issued. Without
BUS_WAIT_LIMIT it is never sent (V4). -/
def execTimeout (s : State) : Host.Outcome State Fault Refusal :=
  if s.params.busWaitLimit.isSome then
    .next (runCycle (raiseNack Config.errTimeout { s with busStatus := .timedOut }))
  else .refused (.errorCodeNeverSent Config.errTimeout)

/-- Checksum (R226): the code is never sent, and a wrong checksum is answered with silence, the frame
being dropped (R221). DEDUCED (log 18). -/
def execChecksum (s : State) : Host.Outcome State Fault Refusal := .next (dropFrame s)

/-- BusFailure (R224): a bus cycle of the command has failed; the lock is released (43 R190). -/
def execBusFailure (s : State) : Host.Outcome State Fault Refusal :=
  .next (runCycle (raiseNack Config.errBusFailure { s with busStatus := .fail }))

end Sys2Proof.Machine
end

