-- ==== Sys2Proof/Machine/ProfileStore.lean ====
section
/-! DEFINITION. ProfileStore: `save` and `load` (44_profile_store R201, R202). -/

namespace Sys2Proof.Machine

/-- `save(id, data)` (R201). -/
def saveProfilePrim (id : Byte) (data : List Byte) : Primitive := .writeBlock (profileAddress id) data

/-- `load(id)` (R202). -/
def loadProfilePrim (id : Byte) : Primitive := .readBlock (profileAddress id) Config.profileSize

end Sys2Proof.Machine
end

