-- ==== Sys2Proof/Machine/Requests.lean ====
section
/-! DEFINITION. The nine requests (42_command_dispatcher R150 to R158). A request's meaning latches its
fields (R143), makes its plan (R163 `Decode`) and runs the protocol cycle to its end. -/

namespace Sys2Proof.Machine

/-- The plan is a bus primitive: go on in `BusAcquire` (R163). -/
def planBus (prim : Primitive) (rule : ReplyRule) (s : State) : State :=
  { s with plan := .bus prim rule, dispState := .busAcquire }

/-- ReadByte (R150). -/
def execReadByte (a : Half) (s : State) : Host.Outcome State Fault Refusal :=
  .next (runCycle (planBus (readBytePrim a) .readByteResult
    { s with reqCode := Config.codeReadByte, reqPlen := 2, reqAddr := a }))

/-- WriteByte (R151). -/
def execWriteByte (a : Half) (d : Byte) (s : State) : Host.Outcome State Fault Refusal :=
  .next (runCycle (planBus (writeBytePrim a d) .ack
    { s with reqCode := Config.codeWriteByte, reqPlen := 3, reqAddr := a }))

/-- ReadAll (R152): the size is clamped (R159). -/
def execReadAll (a size : Half) (s : State) : Host.Outcome State Fault Refusal :=
  .next (runCycle (planBus (.readBlock a (clamp size).toNat) (.readAllResult (clamp size).toNat)
    { s with reqCode := Config.codeReadAll, reqPlen := 4, reqAddr := a, reqSize := clamp size }))

/-- WriteAll (R153): the size is the number of data bytes and is not clamped. -/
def execWriteAll (a : Half) (data : List Byte) (s : State) : Host.Outcome State Fault Refusal :=
  .next (runCycle (planBus (.writeBlock a data) .ack
    { s with reqCode := Config.codeWriteAll, reqPlen := 4 + data.length, reqAddr := a,
             reqSize := BitVec.ofNat 16 data.length }))

/-- Clear (R154): 0xFF from address 0 upward, the size clamped (R159). -/
def execClear (size : Half) (s : State) : Host.Outcome State Fault Refusal :=
  .next (runCycle (planBus (.writeBlock 0x0000 (List.replicate (clamp size).toNat 0xFF)) .ack
    { s with reqCode := Config.codeClear, reqPlen := 2, reqSize := clamp size }))

/-- Verify (R155). -/
def execVerify (a : Half) (expected : List Byte) (s : State) : Host.Outcome State Fault Refusal :=
  .next (runCycle (planBus (.readBlock a expected.length) (.verify expected)
    { s with reqCode := Config.codeVerify, reqPlen := 4 + expected.length, reqAddr := a,
             reqSize := BitVec.ofNat 16 expected.length }))

/-- SaveProfile (R156): an index of 4 or more is Nack(InvalidCommand), before any bus access. -/
def execSaveProfile (id : Byte) (data : List Byte) (s : State) : Host.Outcome State Fault Refusal :=
  let s1 := { s with reqCode := Config.codeSaveProfile, reqPlen := 1 + data.length, reqId := id }
  if validProfile id then .next (runCycle (planBus (saveProfilePrim id data) .ack s1))
  else .next (runCycle (raiseNack Config.errInvalidCommand s1))

/-- LoadProfile (R157): the response is ReadAllResult with 64 bytes. -/
def execLoadProfile (id : Byte) (s : State) : Host.Outcome State Fault Refusal :=
  let s1 := { s with reqCode := Config.codeLoadProfile, reqPlen := 1, reqId := id }
  if validProfile id then
    .next (runCycle (planBus (loadProfilePrim id) (.readAllResult Config.profileSize) s1))
  else .next (runCycle (raiseNack Config.errInvalidCommand s1))

/-- Unknown (R158): Nack(InvalidCommand) whatever the payload, no bus access. -/
def execUnknown (code : Byte) (payload : List Byte) (s : State) : Host.Outcome State Fault Refusal :=
  .next (runCycle (raiseNack Config.errInvalidCommand
    { s with reqCode := code, reqPlen := payload.length }))

end Sys2Proof.Machine
end

