-- ==== Sys2Proof/Machine/Responses.lean ====
section
/-! DEFINITION. The seven responses (30_encoding R87, R91). A response's meaning builds its frame (42
R148), sends it under `tx_lock` (45 R210) and ends the protocol cycle (42 R161). -/

namespace Sys2Proof.Machine

/-- Ack. -/
def execAck (s : State) : Host.Outcome State Fault Refusal :=
  .next (runCycle (respondWith Config.codeAck [] s))

/-- Nack (R88, 60 R222). An error code that is never sent is refused (R96, V3 to V5). -/
def execNack (e : Byte) (s : State) : Host.Outcome State Fault Refusal :=
  if errorCodeSent s.params e then .next (runCycle (respondWith Config.codeNack [e] s))
  else .refused (.errorCodeNeverSent e)

/-- ReadByteResult. -/
def execReadByteResult (d : Byte) (s : State) : Host.Outcome State Fault Refusal :=
  .next (runCycle (respondWith Config.codeReadByteResult [d] s))

/-- ReadAllResult. -/
def execReadAllResult (data : List Byte) (s : State) : Host.Outcome State Fault Refusal :=
  .next (runCycle (respondWith Config.codeReadAllResult data s))

/-- VerifyOk. -/
def execVerifyOk (s : State) : Host.Outcome State Fault Refusal :=
  .next (runCycle (respondWith Config.codeVerifyOk [] s))

/-- VerifyFail. -/
def execVerifyFail (s : State) : Host.Outcome State Fault Refusal :=
  .next (runCycle (respondWith Config.codeVerifyFail [] s))

/-- Error 0x1F is never sent: no rule produces it and its payload is not defined (60 R227, V2). -/
def execError (_payload : List Byte) (_s : State) : Host.Outcome State Fault Refusal :=
  .refused .errorResponseNeverSent

end Sys2Proof.Machine
end

