-- ==== Sys2Proof/Machine/Dispatch.lean ====
section
/-! DEFINITION. One arm per constructor of Instr. -/

namespace Sys2Proof.Machine

def exec (i : Instr) (s : State) : Host.Outcome State Fault Refusal :=
  match i with
  -- requests (42 R150 to R158)
  | .readByte a => Sys2Proof.Machine.execReadByte a s
  | .writeByte a d => Sys2Proof.Machine.execWriteByte a d s
  | .readAll a n => Sys2Proof.Machine.execReadAll a n s
  | .writeAll a ds => Sys2Proof.Machine.execWriteAll a ds s
  | .clear n => Sys2Proof.Machine.execClear n s
  | .verify a ds => Sys2Proof.Machine.execVerify a ds s
  | .saveProfile p ds => Sys2Proof.Machine.execSaveProfile p ds s
  | .loadProfile p => Sys2Proof.Machine.execLoadProfile p s
  | .unknown c ds => Sys2Proof.Machine.execUnknown c ds s
  -- responses (30 R87)
  | .ack => Sys2Proof.Machine.execAck s
  | .nack e => Sys2Proof.Machine.execNack e s
  | .readByteResult d => Sys2Proof.Machine.execReadByteResult d s
  | .readAllResult ds => Sys2Proof.Machine.execReadAllResult ds s
  | .verifyOk => Sys2Proof.Machine.execVerifyOk s
  | .verifyFail => Sys2Proof.Machine.execVerifyFail s
  | .error ds => Sys2Proof.Machine.execError ds s
  -- error codes (60 R222 to R226)
  | .invalidCommand => Sys2Proof.Machine.execInvalidCommand s
  | .timeout => Sys2Proof.Machine.execTimeout s
  | .checksum => Sys2Proof.Machine.execChecksum s
  | .busFailure => Sys2Proof.Machine.execBusFailure s
  -- bus cycles (43 R184, R185)
  | .busRead a n => Sys2Proof.Machine.execBusRead a n s
  | .busWrite a d => Sys2Proof.Machine.execBusWrite a d s

end Sys2Proof.Machine
end

