-- ==== Sys2Proof/WellFormed.lean ====
section
/-! DEFINITION. Which instructions have an encoding: the operand conditions of 30_encoding R89 to R91
and 43_bus_gateway R184. -/

namespace Sys2Proof

/-- The eight command codes of R86; every other code byte is Unknown (R95). -/
def isCommandCode (code : Byte) : Bool := 0x01#8 ≤ code && code ≤ 0x08#8

/-- The operands fit the row's encoding. -/
def Instr.wellFormed : Instr → Bool
  | .readByte _ => true
  | .writeByte _ _ => true
  | .readAll _ _ => true
  | .writeAll _ data => data.length ≤ Config.maxTransfer
  | .clear _ => true
  | .verify _ expected => expected.length ≤ Config.maxTransfer
  | .saveProfile _ data => data.length = Config.profileSize
  | .loadProfile _ => true
  | .unknown code payload => !isCommandCode code && payload.length ≤ Config.maxPayload
  | .ack => true
  | .nack _ => true
  | .readByteResult _ => true
  | .readAllResult data => data.length ≤ Config.readClamp
  | .verifyOk => true
  | .verifyFail => true
  | .error payload => payload.length ≤ Config.maxPayload
  | .invalidCommand => true
  | .timeout => true
  | .checksum => true
  | .busFailure => true
  | .busRead _ len => 1 ≤ len && len ≤ Config.maxTransfer
  | .busWrite _ _ => true

end Sys2Proof
end

