-- ==== Sys2Proof/Decode.lean ====
section
/-! DEFINITION. The decoder, total on any bytes and rejecting by name, and after it the encoder, both
written from 30_encoding R80 to R94 and 42_command_dispatcher R143 to R145. -/

namespace Sys2Proof
open Machine

/-- Command decode of a request's code byte and payload (R144, R145): all 8 bits of the code are
compared (R83), a command's payload has exactly its length, and every other code is Unknown (R95). -/
def decodeCommand (code : Byte) (p : List Byte) : Decoded :=
  if code = Config.codeReadByte then
    if p.length = 2 then .instr (.readByte (addrField p)) else .reject .payloadLength
  else if code = Config.codeWriteByte then
    if p.length = 3 then .instr (.writeByte (addrField p) (byteAt p 2)) else .reject .payloadLength
  else if code = Config.codeReadAll then
    if p.length = 4 then .instr (.readAll (addrField p) (sizeField p)) else .reject .payloadLength
  else if code = Config.codeWriteAll then
    if blockLengthOk p then .instr (.writeAll (addrField p) (p.drop 4)) else .reject .payloadLength
  else if code = Config.codeClear then
    if p.length = 2 then .instr (.clear (clearSizeField p)) else .reject .payloadLength
  else if code = Config.codeVerify then
    if blockLengthOk p then .instr (.verify (addrField p) (p.drop 4)) else .reject .payloadLength
  else if code = Config.codeSaveProfile then
    if p.length = 65 then .instr (.saveProfile (idField p) (p.drop 1)) else .reject .payloadLength
  else if code = Config.codeLoadProfile then
    if p.length = 1 then .instr (.loadProfile (idField p)) else .reject .payloadLength
  else .instr (.unknown code p)

/-- A response's code byte and payload (R87, R91). The payload of Error has no layout (R227). -/
def decodeResponse (code : Byte) (p : List Byte) : Decoded :=
  if code = Config.codeAck then
    if p.length = 0 then .instr .ack else .reject .payloadLength
  else if code = Config.codeNack then
    if p.length = 1 then .instr (.nack (byteAt p 0)) else .reject .payloadLength
  else if code = Config.codeReadByteResult then
    if p.length = 1 then .instr (.readByteResult (byteAt p 0)) else .reject .payloadLength
  else if code = Config.codeReadAllResult then
    if p.length ≤ Config.readClamp then .instr (.readAllResult p) else .reject .payloadLength
  else if code = Config.codeVerifyOk then
    if p.length = 0 then .instr .verifyOk else .reject .payloadLength
  else if code = Config.codeVerifyFail then
    if p.length = 0 then .instr .verifyFail else .reject .payloadLength
  else if code = Config.codeError then
    if p.length ≤ Config.maxPayload then .instr (.error p) else .reject .payloadLength
  else .reject .undefinedResponse

/-- A Nack's error-code byte (R88). -/
def decodeError (e : Byte) : Decoded :=
  if e = Config.errInvalidCommand then .instr .invalidCommand
  else if e = Config.errTimeout then .instr .timeout
  else if e = Config.errChecksum then .instr .checksum
  else if e = Config.errBusFailure then .instr .busFailure
  else .reject .undefinedErrorCode

/-- A bus cycle: header `opcode, hi8(addr), lo8(addr)` (R93), then one data byte out for a write
(R185), or 1 to 248 bytes in for a read (R184). -/
def decodeBusCycle (out : List Byte) (inLen : Nat) : Decoded :=
  if byteAt out 0 = Config.busOpRead then
    if out.length = 3 && (1 ≤ inLen && inLen ≤ Config.maxTransfer) then
      .instr (.busRead (halfAt out 1) inLen)
    else .reject .busShape
  else if byteAt out 0 = Config.busOpWrite then
    if out.length = 4 && inLen = 0 then .instr (.busWrite (halfAt out 1) (byteAt out 3))
    else .reject .busShape
  else .reject .undefinedBusOpcode

/-- A frame: validated first (41_frame_validator R131), at most 256 bytes (R81), then its code and
payload. -/
def decodeFrame (how : Byte → List Byte → Decoded) (f : List Byte) : Decoded :=
  match firstFailure f with
  | some r => .reject r
  | none =>
    if f.length ≤ Config.maxFrameSize then how (frameCode f) (framePayload f) else .reject .tooLong

/-- The decoder. -/
def decode : Encoded → Decoded
  | .request f => decodeFrame decodeCommand f
  | .response f => decodeFrame decodeResponse f
  | .errorCode e => decodeError e
  | .busCycle out inLen => decodeBusCycle out inLen

/-- The encoder: the words of a well-formed instruction (R80, R89, R91, R88, R93). -/
def encode : Instr → Encoded
  | .readByte a => .request (buildFrame Config.codeReadByte (halfBytes a))
  | .writeByte a d => .request (buildFrame Config.codeWriteByte (halfBytes a ++ [d]))
  | .readAll a n => .request (buildFrame Config.codeReadAll (halfBytes a ++ halfBytes n))
  | .writeAll a ds => .request (buildFrame Config.codeWriteAll
      (halfBytes a ++ halfBytes (BitVec.ofNat 16 ds.length) ++ ds))
  | .clear n => .request (buildFrame Config.codeClear (halfBytes n))
  | .verify a ds => .request (buildFrame Config.codeVerify
      (halfBytes a ++ halfBytes (BitVec.ofNat 16 ds.length) ++ ds))
  | .saveProfile i ds => .request (buildFrame Config.codeSaveProfile (i :: ds))
  | .loadProfile i => .request (buildFrame Config.codeLoadProfile [i])
  | .unknown c p => .request (buildFrame c p)
  | .ack => .response (buildFrame Config.codeAck [])
  | .nack e => .response (buildFrame Config.codeNack [e])
  | .readByteResult d => .response (buildFrame Config.codeReadByteResult [d])
  | .readAllResult ds => .response (buildFrame Config.codeReadAllResult ds)
  | .verifyOk => .response (buildFrame Config.codeVerifyOk [])
  | .verifyFail => .response (buildFrame Config.codeVerifyFail [])
  | .error p => .response (buildFrame Config.codeError p)
  | .invalidCommand => .errorCode Config.errInvalidCommand
  | .timeout => .errorCode Config.errTimeout
  | .checksum => .errorCode Config.errChecksum
  | .busFailure => .errorCode Config.errBusFailure
  | .busRead a n => .busCycle (Config.busOpRead :: halfBytes a) n
  | .busWrite a d => .busCycle (Config.busOpWrite :: halfBytes a ++ [d]) 0

/-- The `k` bytes after the code byte of a table word: byte `j` is bits `8j+7 .. 8j`, and every bit at
or above `nbits` is 0. -/
def tableOperands (nbits w k : Nat) : List Byte :=
  (List.range k).map fun j => BitVec.ofNat 8 ((w % 2 ^ nbits) >>> (8 * (j + 1)))

/-- The code byte of a table word. -/
def tableCode (nbits w : Nat) : Byte := BitVec.ofNat 8 (w % 2 ^ nbits)

/-- How many payload bytes the code requires (R145, R91); WriteAll and Verify as their `size` field
says, but no more than a frame carries. -/
def tablePayloadLength (nbits w : Nat) : Nat :=
  let code := tableCode nbits w
  if code = Config.codeReadByte then 2
  else if code = Config.codeWriteByte then 3
  else if code = Config.codeReadAll then 4
  else if code = Config.codeWriteAll || code = Config.codeVerify then
    4 + Nat.min (sizeField (tableOperands nbits w 4)).toNat Config.maxTransfer
  else if code = Config.codeClear then 2
  else if code = Config.codeSaveProfile then 65
  else if code = Config.codeLoadProfile then 1
  else if code = Config.codeNack || code = Config.codeReadByteResult then 1
  else nbits / 8 - 1

/-- The payload of a table word. -/
def tablePayload (nbits w : Nat) : List Byte := tableOperands nbits w (tablePayloadLength nbits w)

/-- Whether the word's code byte is one of the seven response codes (R87). -/
def isResponseCode (code : Byte) : Bool := (0x10#8 ≤ code && code ≤ 0x15#8) || code = Config.codeError

/-- The bytes of a table word laid out as the hardware carries them. DEDUCED (log 16): the table's code
byte does not say which of the four formats it belongs to; a command code is read as a request, one of
the seven response codes as a response, and every other code as an Unknown request. -/
def tableEncoded (nbits w : Nat) : Encoded :=
  let code := tableCode nbits w
  if isResponseCode code then .response (buildFrame code (tablePayload nbits w))
  else .request (buildFrame code (tablePayload nbits w))

/-- The instruction the decoder reads from a word of `spec/opcode_table.json`. -/
def decodeTableWord (nbits w : Nat) : Option Instr :=
  match decode (tableEncoded nbits w) with
  | .instr i => some i
  | .reject _ => none

end Sys2Proof
end

