-- ==== Sys2Proof/Machine/Fetch.lean ====
section
/-! DEFINITION. Which instruction the next step runs. A request is fetched in `Decode` from the hand-off
slot, a bus cycle in `BusRun` from the plan, a response in `Respond`, an error code where it is raised
(30_encoding R102, 42 R163). -/

namespace Sys2Proof.Machine

/-- What the next step does: run an instruction, take a turn that is no instruction, or refuse. -/
inductive Fetch where
  | run (i : Instr)
  | advance
  | refuse (r : Refusal)
  deriving DecidableEq, Repr

/-- The bus instruction of a bus cycle. -/
def busInstr : BusOp → Instr
  | .read a n => .busRead a n
  | .write a d => .busWrite a d

/-- The request in the hand-off slot, as `Decode` reads it (R143 to R145). -/
def slotDecoded (s : State) : Decoded := decodeCommand (frameCode (slotFrame s)) (framePayload (slotFrame s))

/-- The instruction at the dispatcher's control point. A wrong checksum raises Checksum, a payload of
the wrong length raises InvalidCommand (R145), a failed cycle raises BusFailure (R190). -/
def fetchDispatcher (s : State) : Fetch :=
  if s.settling || s.cycle.isSome then .advance
  else
    match s.dispState with
    | .validate => if firstFailure (slotFrame s) = some .badChecksum then .run .checksum else .advance
    | .decode =>
      match slotDecoded s with
      | .instr i => .run i
      | .reject _ => .run .invalidCommand
    | .busRun =>
      match nextOp s with
      | some op => .run (busInstr op)
      | none => if s.busStatus = .fail then .run .busFailure else .advance
    | .respond =>
      match decodeResponse (chooseResponse s).1 (chooseResponse s).2 with
      | .instr i => .run i
      | .reject _ => .refuse .responseNotDefined
    | .idle => .advance
    | .busAcquire => .advance
    | .txAcquire => .advance
    | .txRun => .advance
    | .finish => .advance

/-- What the next step does, the schedule's next turn taken into account. The expiry of the wait for
`bus_lock` raises Timeout (R225). -/
def fetch (s : State) : Fetch :=
  match s.schedule with
  | .env .waitExpires :: _ => if waitExpiryEnabled s then .run .timeout else .advance
  | .env _ :: _ => .advance
  | .dispatcher :: _ => fetchDispatcher s
  | [] => fetchDispatcher s

/-- The state an instruction runs in: its turn is taken from the schedule, and in `Decode` `req_code` and
`req_plen` are latched, which R163 does for a rejected payload too. -/
def prepare (s : State) : State :=
  let s1 := { s with schedule := s.schedule.tail }
  if s.dispState = .decode then latchHeader s1 else s1

/-- The dispatcher has the next turn and no bus cycle is under way. -/
def dispatcherNext (s : State) : State :=
  { s with cycle := none, settling := false, cs := .deasserted, schedule := .dispatcher :: s.schedule }

/-- A request frame, validated, in the slot, and the dispatcher in `Decode`. -/
def placeRequest (f : List Byte) (s : State) : State :=
  { dispatcherNext s with frameBuf := bufOverwrite s.frameBuf f, frameLen := f.length,
                          frameReady := true, dispState := .decode }

/-- A response chosen, and the dispatcher in `Respond`. -/
def placeResponse (f : List Byte) (s : State) : State :=
  { dispatcherNext s with plan := .reply (frameCode f) (framePayload f), dispState := .respond }

/-- A table word stored where the next step fetches it (log 16, log 17). -/
def placeTableWord (nbits w : Nat) (s : State) : State :=
  match tableEncoded nbits w with
  | .request f => placeRequest f s
  | .response f => placeResponse f s
  | .errorCode _ => s
  | .busCycle _ _ => s

end Sys2Proof.Machine
end

