-- ==== Sys2Proof/Machine/Step.lean ====
section
/-! DEFINITION. One step: the instruction at the machine's control point, or one turn of an agent. -/

namespace Sys2Proof.Machine

/-- One step. -/
def step (s : State) : Host.Outcome State Fault Refusal :=
  match fetch s with
  | .run i => exec i (prepare s)
  | .advance => .next (turn s)
  | .refuse r => .refused r

/-- `s` with a table word stored where `step` fetches its next instruction, and the next turn given to
the dispatcher. -/
def State.withFetchWord (s : State) (nbits w : Nat) : State := placeTableWord nbits w s

end Sys2Proof.Machine
end

