-- ==== Sys2Proof/Safety.lean ====
section
/-! DEFINITION. What the statements are about: the invariants of SCFD (10_state R24, R36 to R39, R48;
40_frame_assembler R119), the quiet states in which a protocol cycle runs without interference, and the
state a primitive and a response leave, written without the run of turns that produces it. -/

namespace Sys2Proof.Safety
open Sys2Proof.Machine

/-! ## Invariants -/

/-- R24: the assembler. In `WaitingForHeader` nothing is collected; in `Collecting` 1 to 256 bytes are,
the first is HEADER, and no byte at offset 3 or later is TAIL. -/
def AsmInv (s : State) : Prop :=
  (s.asmState = .waitingForHeader → s.asmLen = 0) ∧
  (s.asmState = .collecting →
    1 ≤ s.asmLen ∧ s.asmLen ≤ 256 ∧ bufGet s.asmBuf 0 = Config.header ∧
    ∀ i, 3 ≤ i → i < s.asmLen → bufGet s.asmBuf i ≠ Config.tail)

/-- R119, R28: a frame in the slot has 4 to 256 bytes, HEADER first, TAIL last, and no TAIL between
offset 3 and the last. -/
def SlotInv (s : State) : Prop :=
  s.frameReady = true →
    4 ≤ s.frameLen ∧ s.frameLen ≤ 256 ∧ bufGet s.frameBuf 0 = Config.header ∧
    bufGet s.frameBuf (s.frameLen - 1) = Config.tail ∧
    ∀ i, 3 ≤ i → i + 1 < s.frameLen → bufGet s.frameBuf i ≠ Config.tail

/-- R39, R36, R38: the dispatcher holds `bus_lock` exactly in `BusRun` and `tx_lock` exactly in `TxRun`;
chip-select is asserted exactly while a bus cycle is in progress; a bus cycle or a settle delay happens
only while the dispatcher holds `bus_lock`, and never both at once. -/
def LockInv (s : State) : Prop :=
  (s.busLock = .heldBy .dispatcher ↔ s.dispState = .busRun) ∧
  (s.txLock = .heldBy .dispatcher ↔ s.dispState = .txRun) ∧
  (s.cs = .asserted ↔ s.cycle.isSome = true) ∧
  (s.cycle.isSome = true → s.busLock = .heldBy .dispatcher ∧ s.settling = false) ∧
  (s.settling = true → s.busLock = .heldBy .dispatcher)

/-- R36, R37, D15: a lock is held externally only if its parameter allows an external user. -/
def ExternalInv (s : State) : Prop :=
  (s.busLock = .heldBy .external → s.params.hasExternalBusMaster = true) ∧
  (s.txLock = .heldBy .external → s.params.hasExternalTxUser = true)

/-- The canonical form of the store, and R44: it has no cell outside the device. -/
def StoreInv (s : State) : Prop :=
  Memory.wf s.store = true ∧ ∀ c ∈ s.store, c.1 < s.params.storeSize

/-- R32, R33, R57, R214: what a plan and a status may be. An immediate reply is a Nack with a code that
is sent; a read moves at most 248 bytes, and at most 246 when they are sent back; a block write has at
most 248 bytes; a wait has expired only if BUS_WAIT_LIMIT is set (R34). -/
def PlanInv (s : State) : Prop :=
  (s.busStatus = .timedOut → s.params.busWaitLimit.isSome = true) ∧
  match s.plan with
  | .reply code payload =>
    code = Config.codeNack ∧ ∃ e, payload = [e] ∧ errorCodeSent s.params e = true
  | .bus (.readBlock _ n) .readByteResult => n = 1
  | .bus (.readBlock _ n) (.readAllResult m) => n = m ∧ n ≤ 246
  | .bus (.readBlock _ n) (.verify expected) => n = expected.length ∧ n ≤ 248
  | .bus (.writeBlock _ data) .ack => data.length ≤ 248
  | .bus _ _ => False

/-- R214: the responses SCFD can send, under its parameters. -/
def Sendable (p : Params) (code : Byte) (payload : List Byte) : Prop :=
  (code = Config.codeAck ∧ payload = []) ∨
  (code = Config.codeNack ∧ ∃ e, payload = [e] ∧ errorCodeSent p e = true) ∨
  (code = Config.codeReadByteResult ∧ payload.length = 1) ∨
  (code = Config.codeReadAllResult ∧ payload.length ≤ 246) ∨
  (code = Config.codeVerifyOk ∧ payload = []) ∨
  (code = Config.codeVerifyFail ∧ payload = [])

/-- R33, R35, R210, R214: from `TxAcquire` to `Finish` the response buffer holds a frame that SCFD can
send, built by `build_frame`, and `tx_index` does not pass its end. -/
def RespInv (s : State) : Prop :=
  (s.dispState = .txAcquire ∨ s.dispState = .txRun ∨ s.dispState = .finish) →
    (∃ code payload, Sendable s.params code payload ∧ s.respLen = payload.length + 4 ∧
      bufPrefix s.respBuf s.respLen = buildFrame code payload) ∧
    (s.dispState ≠ .txAcquire → s.txIndex ≤ s.respLen)

/-! ## Quiet states -/

/-- Nothing else moves: no turn of another agent is scheduled, both transports serve, both locks are
free, and no bus cycle or settle delay is under way. -/
abbrev Quiet (s : State) : Prop :=
  s.schedule = [] ∧ s.busReady = true ∧ s.txReady = true ∧ s.busLock = .free ∧ s.txLock = .free ∧
  s.cycle = none ∧ s.settling = false ∧ s.cs = .deasserted

/-- The way out is free: no turn of another agent is scheduled, the serial transport serves, `tx_lock` is
free, and no bus cycle or settle delay is under way. Who holds `bus_lock` does not matter (R149). -/
abbrev CanSend (s : State) : Prop :=
  s.schedule = [] ∧ s.txReady = true ∧ s.txLock = .free ∧ s.cycle = none ∧ s.settling = false

/-- The dispatcher holds the bus and can issue a cycle (R182): no turn of another agent is scheduled, the
bus transport serves, chip-select is deasserted, and no cycle or settle delay is under way. -/
abbrev HoldsBus (s : State) : Prop :=
  s.schedule = [] ∧ s.busReady = true ∧ s.busLock = .heldBy .dispatcher ∧ s.cycle = none ∧
  s.settling = false ∧ s.cs = .deasserted

/-- The state after the statuses of `k` bus cycles have been drawn: only `answers` and `draws` differ. -/
def popStatuses : Nat → State → State
  | 0, s => s
  | k + 1, s => popStatuses k (popStatus s)

/-- The next `k` bus cycles end Ok (U3: the status is an input). -/
def CyclesOk (k : Nat) (s : State) : Prop := ∀ j < k, nextStatus (popStatuses j s) = .ok

/-- Cycles `0 .. k-1` end Ok and cycle `k` fails. -/
def FailsAt (k : Nat) (s : State) : Prop :=
  CyclesOk k s ∧ nextStatus (popStatuses k s) = .fail

/-! ## Events (R42, 95_test_vectors 2.12) -/

/-- The events of one read cycle (R184). -/
def readEvents (a : Half) (data : List Byte) (st : CycleStatus) : List Obs :=
  [.csAssert, .busOut 0x03, .busOut (hi8 a), .busOut (lo8 a)] ++ data.map .busIn ++
    [.csDeassert, .cycleStatus st]

/-- The events of one good write cycle with its settle delay (R185, R189). -/
def writeEvents (a : Half) (d : Byte) : List Obs :=
  [.csAssert, .busOut 0x02, .busOut (hi8 a), .busOut (lo8 a), .busOut d, .csDeassert,
    .cycleStatus .ok, .settle]

/-- The events of one failed write cycle (R185, R190). -/
def writeFailEvents (a : Half) (d : Byte) : List Obs :=
  [.csAssert, .busOut 0x02, .busOut (hi8 a), .busOut (lo8 a), .busOut d, .csDeassert,
    .cycleStatus .fail]

/-- The events of the good write cycles of a block (R187): one cycle per byte, ascending. -/
def blockEvents (a : Half) (data : List Byte) : List Obs :=
  data.zipIdx.flatMap fun p => writeEvents (blockAddr a p.2) p.1

/-- The events of a response sent (R210). -/
def sendEvents (frame : List Byte) : List Obs := .acqTx :: frame.map .tx ++ [.relTx]

/-- The bytes a list of events hands to the serial transport, in order (R41, R45). -/
def txBytes (es : List Obs) : List Byte :=
  es.filterMap fun o => match o with
    | .tx b => some b
    | _ => none

/-- The bytes `bs` received one after another with no dispatcher turn between them (R40). -/
def receive (bs : List Byte) (s : State) : State := bs.foldl (fun t b => pushByte b t) s

/-! ## What a bus cycle, a primitive and a response leave -/

/-- What a good read cycle that is selected now finds at `a` (R52). -/
def readNow (s : State) (a : Half) : Byte := deviceRead s.params (s.draws + 1) s.store a

/-- What a good read cycle of `n` bytes that is selected now finds from `a` on (R52, R61). -/
def readBlockNow (s : State) (a : Half) (n : Nat) : List Byte :=
  deviceReadBlock s.params (s.draws + 1) s.store a n

/-- The store after a good write cycle of `d` to `a` that is selected now (R52). -/
def writeNow (s : State) (a : Half) (d : Byte) : Store := deviceWrite s.params (s.draws + 1) s.store a d

/-- The store after the good write cycles of a block, the first of them selected now (R153). -/
def writeBlockNow (s : State) (a : Half) (data : List Byte) : Store :=
  deviceWriteBlock s.params (s.draws + 1) s.store a data

/-- One read cycle has ended Ok (R184). -/
def readCycleOk (a : Half) (n : Nat) (s : State) : State :=
  { popStatus s with
    dataBuf := bufOverwrite s.dataBuf (readBlockNow s a n), readDone := true,
    trace := s.trace ++ readEvents a (readBlockNow s a n) .ok }

/-- One read cycle has failed (R190, R59): the data are unspecified. -/
def readCycleFail (a : Half) (n : Nat) (s : State) : State :=
  { popStatus s with
    dataBuf := bufOverwrite s.dataBuf (freeBytes n (s.draws + 1)), busStatus := .fail,
    draws := s.draws + 1 + n,
    trace := s.trace ++ readEvents a (freeBytes n (s.draws + 1)) .fail }

/-- One write cycle has ended Ok, its settle delay included (R185, R187, R189). -/
def writeCycleOk (a : Half) (d : Byte) (s : State) : State :=
  { popStatus s with
    store := writeNow s a d, blkIndex := s.blkIndex + 1,
    trace := s.trace ++ writeEvents a d }

/-- One write cycle has failed (R190, R59): the addressed byte is unspecified. -/
def writeCycleFail (a : Half) (d : Byte) (s : State) : State :=
  { popStatus s with
    store := writeNow s a (Config.freeByte (s.draws + 1)), busStatus := .fail,
    draws := s.draws + 2, trace := s.trace ++ writeFailEvents a d }

/-- The response `code, payload` has been built, sent, and the protocol cycle ended (R148, R210, R161).
The bytes of `resp_buf` from `resp_len` on are as they were (log 22). -/
def responded (code : Byte) (payload : List Byte) (s : State) : State :=
  { s with respBuf := bufOverwrite s.respBuf (buildFrame code payload),
           respLen := payload.length + 4, txIndex := payload.length + 4,
           trace := s.trace ++ sendEvents (buildFrame code payload),
           frameReady := false, dispState := .idle }

/-- `Nack(e)` has been raised, sent, and the protocol cycle ended (60 R222): `bus_lock` is released first
if the dispatcher holds it. -/
def nacked (e : Byte) (s : State) : State :=
  responded Config.codeNack [e] { releaseBus s with plan := .reply Config.codeNack [e] }

/-- `read_block(a, n)` has ended Ok (R184, R186, R192). -/
def readDoneOk (a : Half) (n : Nat) (s : State) : State :=
  if n = 0 then
    { s with busStatus := .ok, blkIndex := 0, readDone := false,
             trace := s.trace ++ [.acqBus, .relBus] }
  else
    { popStatus s with
      busStatus := .ok, blkIndex := 0, readDone := true,
      dataBuf := bufOverwrite s.dataBuf (readBlockNow s a n),
      trace := s.trace ++ .acqBus :: readEvents a (readBlockNow s a n) .ok ++ [.relBus] }

/-- `read_block(a, n)`, `n > 0`, has ended Fail (R190, R59): the data are unspecified. -/
def readDoneFail (a : Half) (n : Nat) (s : State) : State :=
  { popStatus s with
    busStatus := .fail, blkIndex := 0, readDone := false,
    dataBuf := bufOverwrite s.dataBuf (freeBytes n (s.draws + 1)),
    draws := s.draws + 1 + n,
    trace := s.trace ++ .acqBus :: readEvents a (freeBytes n (s.draws + 1)) .fail ++ [.relBus] }

/-- `write_block(a, data)` has ended Ok (R187, R192). -/
def writeDoneOk (a : Half) (data : List Byte) (s : State) : State :=
  { popStatuses data.length s with
    busStatus := .ok, blkIndex := data.length, readDone := false,
    store := writeBlockNow s a data,
    trace := s.trace ++ .acqBus :: blockEvents a data ++ [.relBus] }

/-- `write_block(a, data)` has failed at byte `k` (R191, R59): the bytes before it are written, its own
location is unspecified, the bytes after it were not attempted. -/
def writeDoneFail (a : Half) (data : List Byte) (k : Nat) (s : State) : State :=
  { popStatuses (k + 1) s with
    busStatus := .fail, blkIndex := k, readDone := false,
    store := deviceWrite s.params (s.draws + 1 + k) (writeBlockNow s a (data.take k)) (blockAddr a k)
      (Config.freeByte (s.draws + 1 + k)),
    draws := s.draws + 2 + k,
    trace := s.trace ++ .acqBus :: blockEvents a (data.take k) ++
      writeFailEvents (blockAddr a k) (byteAt data k) ++ [.relBus] }

/-! ## Classes of instructions -/

/-- The request rows (R86). -/
def isRequest : Instr → Bool
  | .readByte _ | .writeByte _ _ | .readAll _ _ | .writeAll _ _ | .clear _ | .verify _ _
  | .saveProfile _ _ | .loadProfile _ | .unknown _ _ => true
  | .ack | .nack _ | .readByteResult _ | .readAllResult _ | .verifyOk | .verifyFail | .error _
  | .invalidCommand | .timeout | .checksum | .busFailure | .busRead _ _ | .busWrite _ _ => false

/-- The requests that take `bus_lock` (R146, R204): all but Unknown and an invalid profile index. -/
def usesBus : Instr → Bool
  | .readByte _ | .writeByte _ _ | .readAll _ _ | .writeAll _ _ | .clear _ | .verify _ _ => true
  | .saveProfile p _ | .loadProfile p => validProfile p
  | .unknown _ _ | .ack | .nack _ | .readByteResult _ | .readAllResult _ | .verifyOk | .verifyFail
  | .error _ | .invalidCommand | .timeout | .checksum | .busFailure | .busRead _ _
  | .busWrite _ _ => false

/-- The block a request stores to: its first address and its number of bytes (R151, R153, R154, R156). -/
def storedBlock : Instr → Half × Nat
  | .writeByte a _ => (a, 1)
  | .writeAll a ds => (a, ds.length)
  | .clear n => (0, (clamp n).toNat)
  | .saveProfile p ds => if validProfile p then (profileAddress p, ds.length) else (0, 0)
  | .readByte _ | .readAll _ _ | .verify _ _ | .loadProfile _ | .unknown _ _ | .ack | .nack _
  | .readByteResult _ | .readAllResult _ | .verifyOk | .verifyFail | .error _ | .invalidCommand
  | .timeout | .checksum | .busFailure | .busRead _ _ | .busWrite _ _ => (0, 0)

/-- An event on the bus (R42, R189). -/
def isBusEvent : Obs → Bool
  | .csAssert | .busOut _ | .busIn _ | .csDeassert | .cycleStatus _ | .settle => true
  | .acqBus | .relBus | .acqTx | .relTx | .extAcqBus | .extRelBus | .extAcqTx | .extRelTx
  | .tx _ => false

end Sys2Proof.Safety
end

