-- ==== Sys2Proof/Certificates/Slice0/Obligations.lean ====
section
/-! DEFINITION. The statements for the provers. A hypothesis on `nextStatus`, `CyclesOk` or `FailsAt` is
about the status the bus transport returns, which is an input (10_state R42, U3); `Quiet` and `CanSend`
say that nothing else moves and nothing stalls (70 R260). -/

section
open Sys2Proof Sys2Proof.Machine Sys2Proof.Safety

/-! ## Encodings -/

/-- O1. Every well-formed instruction's words decode to it (R80, R82, R89, R91, R88, R93, R143 to R145). -/
def Obligations.DecodeEncode : Prop :=
  ∀ i : Instr, i.wellFormed = true → decode (encode i) = .instr i

/-- O2. A few words written out from the spec (95_test_vectors 2.3) decode to what they stand for. -/
def Obligations.WordsDecode : Prop :=
  decode (.request [0x7E, 0x01, 0x00, 0x10, 0x6F, 0x7F]) = .instr (.readByte 0x0010) ∧
  decode (.request [0x7E, 0x02, 0x00, 0x10, 0x55, 0x39, 0x7F]) = .instr (.writeByte 0x0010 0x55) ∧
  decode (.request [0x7E, 0x03, 0x00, 0x20, 0x00, 0x03, 0x5E, 0x7F]) = .instr (.readAll 0x0020 3) ∧
  decode (.request [0x7E, 0x10, 0x6E, 0x7F]) = .instr (.unknown 0x10 []) ∧
  decode (.response [0x7E, 0x10, 0x6E, 0x7F]) = .instr .ack ∧
  decode (.response [0x7E, 0x12, 0xAB, 0xC7, 0x7F]) = .instr (.readByteResult 0xAB) ∧
  decode (.errorCode 0x04) = .instr .busFailure ∧
  decode (.busCycle [0x02, 0x00, 0x10, 0x55] 0) = .instr (.busWrite 0x0010 0x55)

/-- O3. `validate` is true exactly when the four conditions V1 to V4 hold (R130). -/
def Obligations.ValidateFourChecks : Prop :=
  ∀ f : List Byte, validate f = true ↔
    4 ≤ f.length ∧ byteAt f 0 = 0x7E ∧ byteAt f (f.length - 1) = 0x7F ∧
    xorFold (f.take (f.length - 2)) = byteAt f (f.length - 2)

/-- O4. `build_frame`: its layout, its length, its checksum, that it validates, and that its code and
payload are read back (R148, R143). -/
def Obligations.BuildFrameLayout : Prop :=
  ∀ (code : Byte) (payload : List Byte), payload.length ≤ 252 →
    buildFrame code payload =
      [0x7E, code] ++ payload ++ [xorFold ([0x7E, code] ++ payload), 0x7F] ∧
    (buildFrame code payload).length = 4 + payload.length ∧
    validate (buildFrame code payload) = true ∧
    frameCode (buildFrame code payload) = code ∧ framePayload (buildFrame code payload) = payload

/-- O5. A valid frame with one byte changed, whichever byte it is, is not valid (R135). -/
def Obligations.OneByteChangeRejected : Prop :=
  ∀ (f : List Byte) (i : Nat) (v : Byte), validate f = true → i < f.length → v ≠ byteAt f i →
    validate (f.set i v) = false

/-! ## FrameAssembler -/

/-- O6. A byte in `WaitingForHeader`: discarded, or the start of a collection (R111, R112). -/
def Obligations.PushWaiting : Prop :=
  ∀ (b : Byte) (s : State), s.asmState = .waitingForHeader →
    (b ≠ 0x7E → pushByte b s = s) ∧
    (b = 0x7E → pushByte b s =
      { s with asmBuf := bufSet s.asmBuf 0 0x7E, asmLen := 1, asmState := .collecting })

/-- O7. A byte in `Collecting`: overflow, append, completion with the slot free, completion with the slot
occupied (R113, R115, R116, R117, R118). -/
def Obligations.PushCollecting : Prop :=
  ∀ (b : Byte) (s : State), s.asmState = .collecting →
    (s.asmLen = 256 → pushByte b s = { s with asmLen := 0, asmState := .waitingForHeader }) ∧
    (s.asmLen ≤ 255 → ¬(b = 0x7F ∧ 4 ≤ s.asmLen + 1) →
      pushByte b s = { s with asmBuf := bufSet s.asmBuf s.asmLen b, asmLen := s.asmLen + 1 }) ∧
    (s.asmLen ≤ 255 → b = 0x7F → 4 ≤ s.asmLen + 1 → s.frameReady = false →
      pushByte b s = { s with
        asmBuf := bufSet s.asmBuf s.asmLen 0x7F, asmLen := 0, asmState := .waitingForHeader,
        frameBuf := bufOverwrite s.frameBuf (bufPrefix (bufSet s.asmBuf s.asmLen 0x7F) (s.asmLen + 1)),
        frameLen := s.asmLen + 1, frameReady := true }) ∧
    (s.asmLen ≤ 255 → b = 0x7F → 4 ≤ s.asmLen + 1 → s.frameReady = true →
      pushByte b s = { s with
        asmBuf := bufSet s.asmBuf s.asmLen 0x7F, asmLen := 0, asmState := .waitingForHeader })

/-- O8. A frame received byte by byte with the slot free is handed off intact if no TAIL stands at an
offset from 3 to its last but one, and otherwise is cut at the first such TAIL (R97, R116, R254). -/
def Obligations.FrameHandedOff : Prop :=
  ∀ (f : List Byte) (s : State), 4 ≤ f.length → f.length ≤ 256 → byteAt f 0 = 0x7E →
    byteAt f (f.length - 1) = 0x7F → s.asmState = .waitingForHeader → s.frameReady = false →
    ((∀ i, 3 ≤ i → i + 1 < f.length → byteAt f i ≠ 0x7F) →
      slotFrame (receive f s) = f ∧ (receive f s).frameReady = true ∧
      (receive f s).asmState = .waitingForHeader ∧ (receive f s).asmLen = 0) ∧
    (∀ i, 3 ≤ i → i + 1 < f.length → byteAt f i = 0x7F →
      (∀ j, 3 ≤ j → j < i → byteAt f j ≠ 0x7F) →
      slotFrame (receive f s) = f.take (i + 1) ∧ (receive f s).frameReady = true)

/-- O9. What a received byte leaves alone: every register but the assembler's and the slot's, and the
slot too while it is occupied (R22, R29, R118, R231). -/
def Obligations.RxFrame : Prop :=
  ∀ (b : Byte) (s : State),
    (∃ st n buf fr fl fb, pushByte b s =
      { s with asmState := st, asmLen := n, asmBuf := buf, frameReady := fr, frameLen := fl,
               frameBuf := fb }) ∧
    (s.frameReady = true →
      ∃ st n buf, pushByte b s = { s with asmState := st, asmLen := n, asmBuf := buf })

/-- O10. While the slot is occupied and stays so, a received byte and a dispatcher turn can come in either
order (R231, R233, U9). -/
def Obligations.RxCommutesWithDispatcher : Prop :=
  ∀ (b : Byte) (s : State), s.frameReady = true → (dispatcherTurn s).frameReady = true →
    dispatcherTurn (pushByte b s) = pushByte b (dispatcherTurn s)

/-! ## Requests -/

/-- O11. ReadByte with a good cycle (R150, R184, R186).
The model's choices here: log 9, log 22, and log 23 for an
address the device has not got. -/
def Obligations.ReadByteAnswered : Prop :=
  ∀ (a : Half) (s : State), Quiet s → nextStatus s = .ok →
    exec (.readByte a) s = .next (responded 0x12 [readNow s a] (readDoneOk a 1
      { s with reqCode := 0x01, reqPlen := 2, reqAddr := a,
               plan := .bus (.readBlock a 1) .readByteResult }))

/-- O12. WriteByte with a good cycle (R151, R185, R188).
The model's choices here: log 9, log 22, and log 23 for an
address the device has not got. -/
def Obligations.WriteByteAnswered : Prop :=
  ∀ (a : Half) (d : Byte) (s : State), Quiet s → nextStatus s = .ok →
    exec (.writeByte a d) s = .next (responded 0x10 [] (writeDoneOk a [d]
      { s with reqCode := 0x02, reqPlen := 3, reqAddr := a,
               plan := .bus (.writeBlock a [d]) .ack }))

/-- O13. ReadAll, its size clamped to 246, with a good cycle (R152, R159, R186).
The model's choices here: log 9, log 22, and log 23 for an
address the device has not got. -/
def Obligations.ReadAllAnswered : Prop :=
  ∀ (a size : Half) (s : State), Quiet s → (size ≠ 0 → nextStatus s = .ok) →
    exec (.readAll a size) s = .next (responded 0x13
      (readBlockNow s a (min size.toNat 246)) (readDoneOk a (min size.toNat 246)
      { s with reqCode := 0x03, reqPlen := 4, reqAddr := a,
               reqSize := BitVec.ofNat 16 (min size.toNat 246),
               plan := .bus (.readBlock a (min size.toNat 246))
                 (.readAllResult (min size.toNat 246)) }))

/-- O14. WriteAll with good cycles: one write cycle per byte (R153, R187).
The model's choices here: log 9, log 22, and log 23 for an
address the device has not got. -/
def Obligations.WriteAllAnswered : Prop :=
  ∀ (a : Half) (data : List Byte) (s : State), Quiet s → data.length ≤ 248 →
    CyclesOk data.length s →
    exec (.writeAll a data) s = .next (responded 0x10 [] (writeDoneOk a data
      { s with reqCode := 0x04, reqPlen := 4 + data.length, reqAddr := a,
               reqSize := BitVec.ofNat 16 data.length, plan := .bus (.writeBlock a data) .ack }))

/-- O15. Clear with good cycles: 0xFF from address 0 on, the size clamped to 246 (R154, R159).
The model's choices here: log 9, log 22, and log 23 for an
address the device has not got. -/
def Obligations.ClearAnswered : Prop :=
  ∀ (size : Half) (s : State), Quiet s → CyclesOk (min size.toNat 246) s →
    exec (.clear size) s = .next (responded 0x10 []
      (writeDoneOk 0x0000 (List.replicate (min size.toNat 246) 0xFF)
      { s with reqCode := 0x05, reqPlen := 2, reqSize := BitVec.ofNat 16 (min size.toNat 246),
               plan := .bus (.writeBlock 0x0000 (List.replicate (min size.toNat 246) 0xFF)) .ack }))

/-- O16. Verify with a good cycle: VerifyOk if every byte is the expected one, else VerifyFail (R155).
The model's choices here: log 9, log 22, and log 23 for an
address the device has not got. -/
def Obligations.VerifyAnswered : Prop :=
  ∀ (a : Half) (expected : List Byte) (s : State), Quiet s → expected.length ≤ 248 →
    (expected ≠ [] → nextStatus s = .ok) →
    exec (.verify a expected) s = .next (responded
      (if ∀ i < expected.length, readNow s (a + BitVec.ofNat 16 i) = byteAt expected i
        then 0x14 else 0x15) []
      (readDoneOk a expected.length
      { s with reqCode := 0x06, reqPlen := 4 + expected.length, reqAddr := a,
               reqSize := BitVec.ofNat 16 expected.length,
               plan := .bus (.readBlock a expected.length) (.verify expected) }))

/-- O17. SaveProfile with a valid index and good cycles (R156, R200, R201).
The model's choices here: log 9, log 22, and log 23 for an
address the device has not got. -/
def Obligations.SaveProfileAnswered : Prop :=
  ∀ (id : Byte) (data : List Byte) (s : State), Quiet s → id.toNat < 4 → data.length = 64 →
    CyclesOk 64 s →
    exec (.saveProfile id data) s = .next (responded 0x10 []
      (writeDoneOk (BitVec.ofNat 16 (0x100 + 64 * id.toNat)) data
      { s with reqCode := 0x07, reqPlen := 65, reqId := id,
               plan := .bus (.writeBlock (BitVec.ofNat 16 (0x100 + 64 * id.toNat)) data) .ack }))

/-- O18. LoadProfile with a valid index and a good cycle (R157, R200, R202).
The model's choices here: log 9, log 22, and log 23 for an
address the device has not got. -/
def Obligations.LoadProfileAnswered : Prop :=
  ∀ (id : Byte) (s : State), Quiet s → id.toNat < 4 → nextStatus s = .ok →
    exec (.loadProfile id) s = .next (responded 0x13
      (readBlockNow s (BitVec.ofNat 16 (0x100 + 64 * id.toNat)) 64)
      (readDoneOk (BitVec.ofNat 16 (0x100 + 64 * id.toNat)) 64
      { s with reqCode := 0x08, reqPlen := 1, reqId := id,
               plan := .bus (.readBlock (BitVec.ofNat 16 (0x100 + 64 * id.toNat)) 64)
                 (.readAllResult 64) }))

/-- O19. SaveProfile and LoadProfile with an index of 4 or more: Nack(InvalidCommand), nothing on the bus,
no lock on the bus, the store untouched (R156, R157, R204, R223).
The model's choices here: log 9, log 22. -/
def Obligations.InvalidProfileNacked : Prop :=
  ∀ (id : Byte) (data : List Byte) (s : State), CanSend s → 4 ≤ id.toNat → data.length = 64 →
    s.busLock ≠ .heldBy .dispatcher →
    exec (.saveProfile id data) s = .next (responded 0x11 [0x01]
      { s with reqCode := 0x07, reqPlen := 65, reqId := id, plan := .reply 0x11 [0x01] }) ∧
    exec (.loadProfile id) s = .next (responded 0x11 [0x01]
      { s with reqCode := 0x08, reqPlen := 1, reqId := id, plan := .reply 0x11 [0x01] })

/-- O20. Unknown: Nack(InvalidCommand) whatever the payload, nothing on the bus (R158, R95).
The model's choices here: log 9, log 22. -/
def Obligations.UnknownNacked : Prop :=
  ∀ (code : Byte) (payload : List Byte) (s : State), CanSend s → s.busLock ≠ .heldBy .dispatcher →
    exec (.unknown code payload) s = .next (responded 0x11 [0x01]
      { s with reqCode := code, reqPlen := payload.length, plan := .reply 0x11 [0x01] })

/-- O21. A failed read cycle is Nack(BusFailure) for each of the four commands that read, and never
VerifyFail (R147, R190, R224); the data are the unspecified ones of U1.
The model's choices here: log 9, log 22, log 3, log 24, and log 23 for an
address the device has not got. -/
def Obligations.FailedReadNacked : Prop :=
  ∀ (a size : Half) (expected : List Byte) (id : Byte) (s : State), Quiet s →
    nextStatus s = .fail → size ≠ 0 → expected ≠ [] → expected.length ≤ 248 → id.toNat < 4 →
    exec (.readByte a) s = .next (responded 0x11 [0x04] (readDoneFail a 1
      { s with reqCode := 0x01, reqPlen := 2, reqAddr := a,
               plan := .bus (.readBlock a 1) .readByteResult })) ∧
    exec (.readAll a size) s = .next (responded 0x11 [0x04] (readDoneFail a (min size.toNat 246)
      { s with reqCode := 0x03, reqPlen := 4, reqAddr := a,
               reqSize := BitVec.ofNat 16 (min size.toNat 246),
               plan := .bus (.readBlock a (min size.toNat 246))
                 (.readAllResult (min size.toNat 246)) })) ∧
    exec (.verify a expected) s = .next (responded 0x11 [0x04] (readDoneFail a expected.length
      { s with reqCode := 0x06, reqPlen := 4 + expected.length, reqAddr := a,
               reqSize := BitVec.ofNat 16 expected.length,
               plan := .bus (.readBlock a expected.length) (.verify expected) })) ∧
    exec (.loadProfile id) s = .next (responded 0x11 [0x04]
      (readDoneFail (BitVec.ofNat 16 (0x100 + 64 * id.toNat)) 64
      { s with reqCode := 0x08, reqPlen := 1, reqId := id,
               plan := .bus (.readBlock (BitVec.ofNat 16 (0x100 + 64 * id.toNat)) 64)
                 (.readAllResult 64) }))

/-- O22. A write cycle that fails at byte `k` is Nack(BusFailure) for each of the four commands that
write: the bytes before it are written, its own location is unspecified, the bytes after it are not
attempted (R147, R191, R59).
The model's choices here: log 9, log 22, log 4, log 12, log 24, and log 23 for an
address the device has not got. -/
def Obligations.FailedWriteNacked : Prop :=
  ∀ (a size : Half) (data profile : List Byte) (id d : Byte) (k : Nat) (s : State), Quiet s →
    FailsAt k s → data.length ≤ 248 → profile.length = 64 → id.toNat < 4 →
    (k = 0 → exec (.writeByte a d) s = .next (responded 0x11 [0x04] (writeDoneFail a [d] 0
      { s with reqCode := 0x02, reqPlen := 3, reqAddr := a,
               plan := .bus (.writeBlock a [d]) .ack }))) ∧
    (k < data.length → exec (.writeAll a data) s = .next (responded 0x11 [0x04]
      (writeDoneFail a data k
      { s with reqCode := 0x04, reqPlen := 4 + data.length, reqAddr := a,
               reqSize := BitVec.ofNat 16 data.length, plan := .bus (.writeBlock a data) .ack }))) ∧
    (k < min size.toNat 246 → exec (.clear size) s = .next (responded 0x11 [0x04]
      (writeDoneFail 0x0000 (List.replicate (min size.toNat 246) 0xFF) k
      { s with reqCode := 0x05, reqPlen := 2, reqSize := BitVec.ofNat 16 (min size.toNat 246),
               plan := .bus (.writeBlock 0x0000 (List.replicate (min size.toNat 246) 0xFF))
                 .ack }))) ∧
    (k < 64 → exec (.saveProfile id profile) s = .next (responded 0x11 [0x04]
      (writeDoneFail (BitVec.ofNat 16 (0x100 + 64 * id.toNat)) profile k
      { s with reqCode := 0x07, reqPlen := 65, reqId := id,
               plan := .bus (.writeBlock (BitVec.ofNat 16 (0x100 + 64 * id.toNat)) profile)
                 .ack })))

/-- O23. A size of 0: the lock is taken and released, no bus cycle is issued whatever status the transport
would give, and the primitive is Ok (R192).
The model's choices here: log 9, log 22. -/
def Obligations.ZeroLengthNoCycle : Prop :=
  ∀ (a : Half) (s : State), Quiet s →
    exec (.readAll a 0) s = .next (responded 0x13 []
      { s with reqCode := 0x03, reqPlen := 4, reqAddr := a, reqSize := 0,
               plan := .bus (.readBlock a 0) (.readAllResult 0), busStatus := .ok, blkIndex := 0,
               readDone := false, trace := s.trace ++ [.acqBus, .relBus] }) ∧
    exec (.writeAll a []) s = .next (responded 0x10 []
      { s with reqCode := 0x04, reqPlen := 4, reqAddr := a, reqSize := 0,
               plan := .bus (.writeBlock a []) .ack, busStatus := .ok, blkIndex := 0,
               readDone := false, trace := s.trace ++ [.acqBus, .relBus] }) ∧
    exec (.clear 0) s = .next (responded 0x10 []
      { s with reqCode := 0x05, reqPlen := 2, reqSize := 0,
               plan := .bus (.writeBlock 0 []) .ack, busStatus := .ok, blkIndex := 0,
               readDone := false, trace := s.trace ++ [.acqBus, .relBus] }) ∧
    exec (.verify a []) s = .next (responded 0x14 []
      { s with reqCode := 0x06, reqPlen := 4, reqAddr := a, reqSize := 0,
               plan := .bus (.readBlock a 0) (.verify []), busStatus := .ok, blkIndex := 0,
               readDone := false, trace := s.trace ++ [.acqBus, .relBus] })

/-- O24. What a request leaves alone when nothing else moves, whatever the statuses: the assembler, the
slot's bytes, the locks, chip-select, the parameters, and every store byte but the cells its write cycles
reach, with their addresses computed as the meaning computes them (R57, R59, R191): the addresses of the
block it stores to, where the device has them. The model's choices here: log 22, and log 23 for an
address the device has not got. -/
def Obligations.RequestFrame : Prop :=
  ∀ (i : Instr) (s : State), Quiet s → isRequest i = true → i.wellFormed = true →
    ∃ t, exec i s = .next t ∧
      (∀ b : Half, (∀ k < (storedBlock i).2,
          b ≠ deviceCell s.params (s.draws + 1 + k) (blockAddr (storedBlock i).1 k)) →
        storeRead t.store b = storeRead s.store b) ∧
      t = { s with
        reqCode := t.reqCode, reqPlen := t.reqPlen, reqAddr := t.reqAddr, reqSize := t.reqSize,
        reqId := t.reqId, dataBuf := t.dataBuf, respBuf := t.respBuf, respLen := t.respLen,
        busStatus := t.busStatus, blkIndex := t.blkIndex, txIndex := t.txIndex, store := t.store,
        plan := t.plan, readDone := t.readDone, answers := t.answers, draws := t.draws,
        trace := t.trace, frameReady := false, dispState := .idle }

/-- O25. The response bytes, the events and the final store of a request depend on the store, the
parameters and the statuses alone, not on earlier requests (R164).
The model's choices here: log 5, log 24. -/
def Obligations.DispatchIsAFunction : Prop :=
  ∀ (i : Instr) (s1 s2 : State), Quiet s1 → Quiet s2 → isRequest i = true → i.wellFormed = true →
    s1.store = s2.store → s1.params.storeSize = s2.params.storeSize → s1.answers = s2.answers →
    s1.draws = s2.draws →
    ∃ t1 t2 es, exec i s1 = .next t1 ∧ exec i s2 = .next t2 ∧ t1.store = t2.store ∧
      t1.trace = s1.trace ++ es ∧ t2.trace = s2.trace ++ es

/-! ## Responses and error codes -/

/-- O26. Ack, ReadByteResult, ReadAllResult, VerifyOk and VerifyFail: the frame is built, sent under
`tx_lock`, and the cycle ends (R87, R91, R148, R210, R161).
The model's choice here: log 22. -/
def Obligations.ResponsesSent : Prop :=
  ∀ (d : Byte) (data : List Byte) (s : State), CanSend s → data.length ≤ 246 →
    exec .ack s = .next (responded 0x10 [] s) ∧
    exec (.readByteResult d) s = .next (responded 0x12 [d] s) ∧
    exec (.readAllResult data) s = .next (responded 0x13 data s) ∧
    exec .verifyOk s = .next (responded 0x14 [] s) ∧
    exec .verifyFail s = .next (responded 0x15 [] s)

/-- O27. Nack with a code that is sent: InvalidCommand, BusFailure, and Timeout if BUS_WAIT_LIMIT is set
(R88, R222).
The model's choice here: log 22. -/
def Obligations.NackSent : Prop :=
  ∀ (e : Byte) (s : State), CanSend s →
    (e = 0x01 ∨ e = 0x04 ∨ (e = 0x02 ∧ s.params.busWaitLimit.isSome = true)) →
    exec (.nack e) s = .next (responded 0x11 [e] s)

/-- O28. A Nack with any other code is never sent (R96, V3 to V5).
The refusal's form is the model's: log 19. -/
def Obligations.NackNeverSent : Prop :=
  ∀ (e : Byte) (s : State), e ≠ 0x01 → e ≠ 0x04 →
    (e = 0x02 → s.params.busWaitLimit = none) →
    exec (.nack e) s = .refused (.errorCodeNeverSent e)

/-- O29. The response Error is never sent (R227).
The refusal's form is the model's: log 19. -/
def Obligations.ErrorNeverSent : Prop :=
  ∀ (payload : List Byte) (s : State), exec (.error payload) s = .refused .errorResponseNeverSent

/-- O30. InvalidCommand raised: Nack(0x01); `bus_lock` is released only if the dispatcher holds it
(R222, R223).
The model's choices here: log 9, log 22. -/
def Obligations.InvalidCommandNacked : Prop :=
  ∀ s : State, CanSend s →
    (s.busLock ≠ .heldBy .dispatcher → exec .invalidCommand s =
      .next (responded 0x11 [0x01] { s with plan := .reply 0x11 [0x01] })) ∧
    (s.busLock = .heldBy .dispatcher → exec .invalidCommand s =
      .next (responded 0x11 [0x01] { s with plan := .reply 0x11 [0x01], busLock := .free,
                                            trace := s.trace ++ [.relBus] }))

/-- O31. BusFailure raised: the lock is released first if the dispatcher holds it, then Nack(0x04)
(R222, R224, R190).
The model's choices here: log 9, log 22. -/
def Obligations.BusFailureNacked : Prop :=
  ∀ s : State, CanSend s →
    (s.busLock = .heldBy .dispatcher → exec .busFailure s = .next (responded 0x11 [0x04]
      { s with busStatus := .fail, plan := .reply 0x11 [0x04], busLock := .free,
               trace := s.trace ++ [.relBus] })) ∧
    (s.busLock ≠ .heldBy .dispatcher → exec .busFailure s = .next (responded 0x11 [0x04]
      { s with busStatus := .fail, plan := .reply 0x11 [0x04] }))

/-- O32. Timeout raised: Nack(0x02) with no bus event if BUS_WAIT_LIMIT is set, and never sent if it is
not (R225, R193).
The model's choices here: log 9, log 22, and the refusal's form, log 19. -/
def Obligations.TimeoutNacked : Prop :=
  ∀ s : State,
    (CanSend s → s.params.busWaitLimit.isSome = true → s.busLock ≠ .heldBy .dispatcher →
      exec .timeout s = .next (responded 0x11 [0x02]
        { s with busStatus := .timedOut, plan := .reply 0x11 [0x02] })) ∧
    (s.params.busWaitLimit = none → exec .timeout s = .refused (.errorCodeNeverSent 0x02))

/-- O33. Checksum: silence, the frame is dropped and nothing else changes (R226, R221; log 18). -/
def Obligations.ChecksumSilent : Prop :=
  ∀ s : State, exec .checksum s = .next { s with frameReady := false, dispState := .idle }

/-! ## Bus cycles -/

/-- O34. BUS_READ under the lock: the header, the data bytes in, `data_buf`, and the status (R184, R190,
R59).
The model's choices here: log 3, log 9, log 24, log 22 for `data_buf` from `n` on, and log 23 for an
address the device has not got. -/
def Obligations.BusReadCycle : Prop :=
  ∀ (a : Half) (n : Nat) (s : State), HoldsBus s → 1 ≤ n → n ≤ 248 →
    (nextStatus s = .ok → exec (.busRead a n) s = .next (readCycleOk a n s)) ∧
    (nextStatus s = .fail → exec (.busRead a n) s = .next (readCycleFail a n s))

/-- O35. BUS_WRITE under the lock: the header and the data byte out, the store, the settle delay, and the
status (R185, R189, R190, R59).
The model's choices here: log 4, log 9, log 12, log 24, and log 23 for an
address the device has not got. -/
def Obligations.BusWriteCycle : Prop :=
  ∀ (a : Half) (d : Byte) (s : State), HoldsBus s →
    (nextStatus s = .ok → exec (.busWrite a d) s = .next (writeCycleOk a d s)) ∧
    (nextStatus s = .fail → exec (.busWrite a d) s = .next (writeCycleFail a d s))

/-- O36. Without the lock no bus cycle is driven (R36). That BUS_READ and BUS_WRITE then have no effect
is the model's reading (log 20, DEDUCED). -/
def Obligations.NoCycleWithoutLock : Prop :=
  ∀ (a : Half) (n : Nat) (d : Byte) (s : State), s.busLock ≠ .heldBy .dispatcher →
    s.cycle = none → s.settling = false →
    exec (.busRead a n) s = .next s ∧ exec (.busWrite a d) s = .next s

/-! ## Steps -/

/-- O37. A step runs the instruction that stands at the dispatcher's control point: in `Decode` the
request whose frame is in the slot (`req_code` and `req_plen` latched), in `Respond` the response chosen,
in `BusRun` the next bus cycle, and after a failed cycle BusFailure (R163, R143). `prepare` takes the
dispatcher's turn from the schedule.
The model's choices here: log 7, log 8, log 21. -/
def Obligations.StepRunsDecoded : Prop :=
  ∀ (i : Instr) (s : State), (s.schedule = [] ∨ s.schedule.head? = some .dispatcher) →
    s.cycle = none → s.settling = false →
    (s.dispState = .decode → decode (.request (slotFrame s)) = .instr i →
      step s = exec i { s with schedule := s.schedule.tail, reqCode := frameCode (slotFrame s),
                               reqPlen := s.frameLen - 4 }) ∧
    (s.dispState = .respond →
      decode (.response (buildFrame (chooseResponse s).1 (chooseResponse s).2)) = .instr i →
      step s = exec i { s with schedule := s.schedule.tail }) ∧
    (∀ op, s.dispState = .busRun → nextOp s = some op →
      step s = exec (busInstr op) { s with schedule := s.schedule.tail }) ∧
    (s.dispState = .busRun → s.busStatus = .fail →
      step s = exec .busFailure { s with schedule := s.schedule.tail })

/-- O38. `Validate`: a frame that passes goes on to `Decode`; one that fails is dropped, and only
`frame_ready` and `disp_state` change (R142, R232). -/
def Obligations.ValidationGate : Prop :=
  ∀ s : State, s.schedule = [] → s.cycle = none → s.settling = false → s.dispState = .validate →
    (validate (slotFrame s) = true → step s = .next { s with dispState := .decode }) ∧
    (validate (slotFrame s) = false →
      step s = .next { s with frameReady := false, dispState := .idle })

/-- O39. A command whose payload has not the required length is not executed: Nack(InvalidCommand), no
bus access, `bus_lock` not requested (R145).
The model's choices here: log 9, log 22. -/
def Obligations.WrongLengthNacked : Prop :=
  ∀ (s : State) (code : Byte) (p : List Byte), CanSend s → s.busLock ≠ .heldBy .dispatcher →
    s.dispState = .decode → frameCode (slotFrame s) = code → framePayload (slotFrame s) = p →
    ((code = 0x01 ∧ p.length ≠ 2) ∨ (code = 0x02 ∧ p.length ≠ 3) ∨ (code = 0x03 ∧ p.length ≠ 4) ∨
      ((code = 0x04 ∨ code = 0x06) ∧
        ¬(4 ≤ p.length ∧ (be16 (byteAt p 2) (byteAt p 3)).toNat = p.length - 4)) ∨
      (code = 0x05 ∧ p.length ≠ 2) ∨ (code = 0x07 ∧ p.length ≠ 65) ∨
      (code = 0x08 ∧ p.length ≠ 1)) →
    step s = .next (responded 0x11 [0x01]
      { s with reqCode := code, reqPlen := s.frameLen - 4, plan := .reply 0x11 [0x01] })

/-- O40. Exactly one response for a frame that passes validation, none for one that does not, and the
dispatcher is in `Idle` with the slot free after it (R160, R161, R214).
The model's choice here: log 8. -/
def Obligations.OneResponsePerRequest : Prop :=
  ∀ s : State, Quiet s → s.dispState = .idle → s.frameReady = true →
    (validate (slotFrame s) = true →
      ∃ s1 s2 t, step s = .next s1 ∧ step s1 = .next s2 ∧ step s2 = .next t ∧
        t.dispState = .idle ∧ t.frameReady = false ∧
        ∃ code payload, Sendable s.params code payload ∧
          txBytes t.trace = txBytes s.trace ++ buildFrame code payload) ∧
    (validate (slotFrame s) = false →
      ∃ s1 t, step s = .next s1 ∧ step s1 = .next t ∧ t.dispState = .idle ∧
        t.frameReady = false ∧ t.trace = s.trace)

/-- O41. With `bus_lock` held externally and nothing scheduled, a command that needs the bus waits in
`BusAcquire`: no event, the store and the slot (`frame_ready`, `frame_len`, `frame_buf`) as they were
(R180, R260).
The model's choice here: log 8. -/
def Obligations.HeldBusLockStalls : Prop :=
  ∀ (i : Instr) (s : State), usesBus i = true → s.busLock = .heldBy .external → s.schedule = [] →
    s.cycle = none → s.settling = false →
    ∃ t, exec i s = .next t ∧ t.dispState = .busAcquire ∧ t.trace = s.trace ∧ t.store = s.store ∧
      t.frameReady = s.frameReady ∧ t.frameLen = s.frameLen ∧ t.frameBuf = s.frameBuf ∧
      t.busLock = s.busLock

/-- O42. With `tx_lock` held externally and nothing scheduled, a response waits in `TxAcquire`: its frame
is built, no byte is sent, and `frame_ready` stays as it was (R212, R260).
The model's choices here: log 8, and log 22 for `resp_buf` from `resp_len` on. -/
def Obligations.HeldTxLockStalls : Prop :=
  ∀ (d : Byte) (data : List Byte) (s : State), s.txLock = .heldBy .external → s.schedule = [] →
    s.cycle = none → s.settling = false → data.length ≤ 246 →
    exec .ack s = .next (respondWith 0x10 [] s) ∧
    exec (.readByteResult d) s = .next (respondWith 0x12 [d] s) ∧
    exec (.readAllResult data) s = .next (respondWith 0x13 data s) ∧
    exec .verifyOk s = .next (respondWith 0x14 [] s) ∧
    exec .verifyFail s = .next (respondWith 0x15 [] s) ∧
    (respondWith 0x13 data s).trace = s.trace ∧
    (respondWith 0x13 data s).frameReady = s.frameReady ∧
    (respondWith 0x13 data s).dispState = .txAcquire

/-- O43. The wait for `bus_lock` expires: with BUS_WAIT_LIMIT set the step takes Nack(Timeout) with no bus
event and the holder keeps the lock; with it not set nothing happens (R193, R225; log 13, log 14).
The model's choices here: log 9, log 22. -/
def Obligations.WaitExpiry : Prop :=
  ∀ s : State, s.schedule = [.env .waitExpires] → s.busLock = .heldBy .external →
    s.dispState = .busAcquire → s.cycle = none → s.settling = false → s.txReady = true →
    s.txLock = .free →
    (s.params.busWaitLimit.isSome = true →
      step s = .next (responded 0x11 [0x02]
        { s with schedule := [], busStatus := .timedOut, plan := .reply 0x11 [0x02] })) ∧
    (s.params.busWaitLimit = none → step s = .next { s with schedule := [] })

/-- O44. A bus transfer expires: with BUS_WAIT_LIMIT set the cycle ends with status Fail, is deselected,
what a read returned and the byte a write addressed are unspecified, and the rest of the store is as it
was; with it not set nothing happens (R193, R190, R59).
The model's choices here: log 3, log 4, log 13, log 14, log 24, log 22 for `data_buf` from `n` on, and log 23
for an address the device has not got. -/
def Obligations.TransferExpiry : Prop :=
  ∀ (s : State) (c : BusCycle), s.schedule = [.env .transferExpires] → s.cycle = some c →
    (s.params.busWaitLimit.isSome = true →
      ∃ t, step s = .next t ∧ t.busStatus = .fail ∧ t.cs = .deasserted ∧ t.cycle = none ∧
        t.busLock = s.busLock ∧ t.trace = s.trace ++ [.csDeassert, .cycleStatus .fail] ∧
        (∀ a n, c.op = .read a n → t.dataBuf = bufOverwrite s.dataBuf (freeBytes n s.draws)) ∧
        ∀ b, (∀ a d, c.op = .write a d → b ≠ deviceCell s.params s.draws a) →
          storeRead t.store b = storeRead s.store b) ∧
    (s.params.busWaitLimit = none → step s = .next { s with schedule := [] })

/-! ## Reset and invariants -/

/-- O45. The reset state (R250). -/
def Obligations.ResetValues : Prop :=
  State.reset.asmState = .waitingForHeader ∧ State.reset.asmLen = 0 ∧
  State.reset.frameReady = false ∧ State.reset.dispState = .idle ∧ State.reset.busLock = .free ∧
  State.reset.txLock = .free ∧ State.reset.cs = .deasserted ∧ State.reset.settling = false

/-- O46. The reset state has every invariant (R250, R24, R36 to R39; R34: `bus_status` is not TimedOut
without BUS_WAIT_LIMIT).
The model's choices here: log 1 (`bus_status` at reset is Ok), log 2, log 9. -/
def Obligations.ResetInvariants : Prop :=
  AsmInv State.reset ∧ SlotInv State.reset ∧ LockInv State.reset ∧ ExternalInv State.reset ∧
  StoreInv State.reset ∧ PlanInv State.reset ∧ RespInv State.reset

/-- O47. Every step keeps the assembler's invariant and the form of a handed-off frame (R24, R119, R28). -/
def Obligations.StepKeepsFrames : Prop :=
  ∀ s t : State, AsmInv s → SlotInv s → step s = .next t → AsmInv t ∧ SlotInv t

/-- O48. Every step keeps the lock and chip-select invariant (R36, R38, R39). -/
def Obligations.StepKeepsLocks : Prop :=
  ∀ s t : State, LockInv s → step s = .next t → LockInv t

/-- O49. Every step keeps it that only a permitted external agent holds a lock (R36, R37). -/
def Obligations.StepKeepsExternal : Prop :=
  ∀ s t : State, ExternalInv s → step s = .next t → ExternalInv t

/-- O50. Every step keeps the store's canonical form (the model's own, log 2), and keeps it that the store
has no cell outside the device (R44; log 23). -/
def Obligations.StepKeepsStoreForm : Prop :=
  ∀ s t : State, StoreInv s → step s = .next t → StoreInv t

/-- O51. Every step keeps it that plans and response frames are ones SCFD can make and send (R33, R57,
R214).
The plan is the model's own field: log 9. -/
def Obligations.StepKeepsResponses : Prop :=
  ∀ s t : State, PlanInv s → RespInv s → step s = .next t → PlanInv t ∧ RespInv t

/-- O52. No step is refused and none faults: nothing stops SCFD (R220). -/
def Obligations.NothingStops : Prop :=
  ∀ s : State, PlanInv s → ∃ t, step s = .next t

/-- O53. The bus and TX events of a turn happen only under the lock they need, and events are only ever
added (R36, R37, R182). -/
def Obligations.EventsUnderLock : Prop :=
  ∀ s : State, LockInv s → ∃ es, (turn s).trace = s.trace ++ es ∧
    (∀ o ∈ es, isBusEvent o = true → s.busLock = .heldBy .dispatcher) ∧
    (∀ b, Obs.tx b ∈ es → s.txLock = .heldBy .dispatcher)

/-- O54. Lock discipline: only a free lock is acquired; the dispatcher gives `bus_lock` back only when its
primitive has ended, or at reset; an external holder loses it only by its own release (R36, R181, R194). -/
def Obligations.BusLockDiscipline : Prop :=
  ∀ s : State,
    (∀ o, (turn s).busLock = .heldBy o → s.busLock = .heldBy o ∨ s.busLock = .free) ∧
    (s.busLock = .heldBy .dispatcher → (turn s).busLock ≠ .heldBy .dispatcher →
      s.schedule.head? = some (.env .reset) ∨
      (s.dispState = .busRun ∧ nextOp s = none ∧ s.cycle = none ∧ s.settling = false)) ∧
    (s.busLock = .heldBy .external → (turn s).busLock ≠ .heldBy .external →
      s.schedule.head? = some (.env .extReleaseBus))

/-- O55. A store byte changes only by a write cycle that reaches its cell, which is the cycle's own address
where the device has it, or by the external master while it holds `bus_lock` (R52, R59, R68).
The model's choices here: log 23, for an address the device has not got, and log 27: after its deselect a
write cycle is no more in progress, so a reset in the settle delay leaves the byte written. -/
def Obligations.WhoChangesTheStore : Prop :=
  ∀ (s : State) (b : Half), storeRead (turn s).store b ≠ storeRead s.store b →
    (∃ c a d, s.cycle = some c ∧ c.op = .write a d ∧ b = deviceCell s.params s.draws a) ∨
    (∃ v, s.schedule.head? = some (.env (.extStore b v)) ∧ s.busLock = .heldBy .external)

/-- O56. Reset in any state: the frame, the request and the response are lost, the dispatcher's locks
become free, an external holder keeps its lock, and the store keeps its contents but for the byte of a
write cycle that was cut (R250, R251, R253).
The model's choices here: log 4, log 11, log 27, and log 23 for an address the device has not got. -/
def Obligations.ResetAtAnyMoment : Prop :=
  ∀ s t : State, envAct .reset s = t →
    t.asmState = .waitingForHeader ∧ t.asmLen = 0 ∧ t.frameReady = false ∧ t.dispState = .idle ∧
    t.cs = .deasserted ∧ t.settling = false ∧ t.cycle = none ∧
    t.busLock = (if s.busLock = .heldBy .external then .heldBy .external else .free) ∧
    t.txLock = (if s.txLock = .heldBy .external then .heldBy .external else .free) ∧
    (∀ b, (∀ c a d, s.cycle = some c → c.op = .write a d → b ≠ deviceCell s.params s.draws a) →
      storeRead t.store b = storeRead s.store b) ∧
    txBytes t.trace = txBytes s.trace

/-! ## The store -/

/-- O57. Reading after a block write to addresses the device has: the data inside the block, which may wrap
at 0xFFFF, and the old byte outside it; and whatever the addresses, the old byte in every cell that the
block's write cycles do not reach (R52, R61, R62). With STORE_SIZE 65536 the device has every address.
The model's choice here: log 23, what an address outside the device does. -/
def Obligations.ReadAfterBlockWrite : Prop :=
  ∀ (p : Params) (n n' : Nat) (m : Store) (a : Half) (data : List Byte), data.length ≤ 65536 →
    ((∀ k < data.length, inDevice p (blockAddr a k) = true) →
      (∀ k < data.length, deviceRead p n' (deviceWriteBlock p n m a data) (a + BitVec.ofNat 16 k) =
        byteAt data k) ∧
      (∀ b, (∀ k < data.length, b ≠ a + BitVec.ofNat 16 k) →
        storeRead (deviceWriteBlock p n m a data) b = storeRead m b)) ∧
    (∀ b, (∀ k < data.length, b ≠ deviceCell p (n + k) (blockAddr a k)) →
      storeRead (deviceWriteBlock p n m a data) b = storeRead m b) ∧
    (65536 ≤ p.storeSize → ∀ b, inDevice p b = true)

/-- O58. The profile addresses and regions (R200, R203). -/
def Obligations.ProfileRegions : Prop :=
  (profileAddress 0 = 0x0100 ∧ profileAddress 1 = 0x0140 ∧ profileAddress 2 = 0x0180 ∧
    profileAddress 3 = 0x01C0) ∧
  (∀ id : Byte, id.toNat < 4 → (profileAddress id).toNat = 0x100 + 64 * id.toNat) ∧
  (∀ (p q : Byte) (i j : Nat), p.toNat < 4 → q.toNat < 4 → i < 64 → j < 64 →
    blockAddr (profileAddress p) i = blockAddr (profileAddress q) j → p = q ∧ i = j) ∧
  (∀ (p : Byte) (i : Nat), p.toNat < 4 → i < 64 →
    0x100 ≤ (blockAddr (profileAddress p) i).toNat ∧ (blockAddr (profileAddress p) i).toNat ≤ 0x1FF) ∧
  (∀ a : Half, 0x100 ≤ a.toNat → a.toNat ≤ 0x1FF →
    ∃ (p : Byte) (i : Nat), p.toNat < 4 ∧ i < 64 ∧ a = blockAddr (profileAddress p) i)

/-- O59. A block written by WriteAll to addresses the device has is what ReadAll then sends back (R62, R152,
R153). With STORE_SIZE 65536 the device has every address; what it does elsewhere is log 23. -/
def Obligations.WriteAllThenReadAll : Prop :=
  ∀ (a : Half) (data : List Byte) (s : State), Quiet s → data.length ≤ 246 →
    (∀ k < data.length, inDevice s.params (blockAddr a k) = true) → CyclesOk (data.length + 1) s →
    ∃ t u, exec (.writeAll a data) s = .next t ∧
      exec (.readAll a (BitVec.ofNat 16 data.length)) t = .next u ∧
      txBytes u.trace = txBytes s.trace ++ buildFrame 0x10 [] ++ buildFrame 0x13 data

/-- O60. A profile saved is what LoadProfile then sends back, and the other profiles keep their bytes, on a
device that has the addresses 0x0100 to 0x01FF, as R52 requires (R156, R157, R203; log 23). -/
def Obligations.SaveThenLoad : Prop :=
  ∀ (id : Byte) (data : List Byte) (s : State), Quiet s → 0x200 ≤ s.params.storeSize → id.toNat < 4 →
    data.length = 64 → CyclesOk 65 s →
    ∃ t u, exec (.saveProfile id data) s = .next t ∧ exec (.loadProfile id) t = .next u ∧
      txBytes u.trace = txBytes s.trace ++ buildFrame 0x10 [] ++ buildFrame 0x13 data ∧
      ∀ (q : Byte) (i : Nat), q.toNat < 4 → q ≠ id → i < 64 →
        storeRead u.store (blockAddr (profileAddress q) i) =
          storeRead s.store (blockAddr (profileAddress q) i)

end
end

