-- ==== Sys2Proof/Laws/Buffers.lean ====
section
/-! SUPPORT. The laws of the 256-byte buffers and of `build_frame` (42 R148). -/

namespace Sys2Proof.Laws
open Sys2Proof.Machine

theorem bufOverwrite_toList (b : Buf) (s : List Byte) :
    (bufOverwrite b s).toList = s.take 256 ++ b.toList.drop s.length := by
  simp [bufOverwrite, Vector.toList]

@[simp] theorem bufOverwrite_nil (b : Buf) : bufOverwrite b [] = b := by
  apply Vector.toList_inj.1; simp [bufOverwrite_toList]

/-- What has been written is read back. -/
theorem bufPrefix_overwrite (b : Buf) (s : List Byte) (h : s.length ≤ 256) :
    bufPrefix (bufOverwrite b s) s.length = s := by
  simp [bufPrefix, bufOverwrite_toList, List.take_of_length_le h]

theorem bufGet_overwrite (b : Buf) (s : List Byte) (i : Nat) (h : s.length ≤ 256) :
    bufGet (bufOverwrite b s) i = if i < s.length then byteAt s i else bufGet b i := by
  simp only [bufGet, bufOverwrite_toList, List.take_of_length_le h, byteAt, List.getD_eq_getElem?_getD,
    List.getElem?_append]
  split
  · rfl
  · rw [List.getElem?_drop]; congr 2; omega

theorem bufGet_set (b : Buf) (i j : Nat) (v : Byte) :
    bufGet (bufSet b i v) j = if j = i ∧ j < 256 then v else bufGet b j := by
  simp only [bufGet, bufSet, List.getD_eq_getElem?_getD, Vector.toList_setIfInBounds, List.getElem?_set]
  by_cases h : i = j
  · subst h
    by_cases h2 : i < 256
    · simp [h2]
    · simp [h2]
  · simp [h, Ne.symm h]

/-- Writing the next byte after an overwritten part. -/
theorem bufSet_overwrite (b : Buf) (s : List Byte) (v : Byte) (h : s.length < 256) :
    bufSet (bufOverwrite b s) s.length v = bufOverwrite b (s ++ [v]) := by
  apply Vector.toList_inj.1
  rw [bufOverwrite_toList, bufSet, Vector.toList_setIfInBounds, bufOverwrite_toList,
    List.take_of_length_le (by omega), List.take_of_length_le (by simp; omega),
    List.set_append_right _ _ le_rfl]
  have hl : b.toList.length = 256 := by simp
  obtain ⟨x, hx⟩ : ∃ x, b.toList.drop s.length = x :: b.toList.drop (s.length + 1) :=
    ⟨b.toList[s.length]'(by omega), List.drop_eq_getElem_cons (by omega)⟩
  simp [hx]

theorem bufPrefix_eq_map (b : Buf) (n : Nat) (h : n ≤ 256) :
    bufPrefix b n = (List.range n).map (bufGet b) := by
  apply List.ext_getElem
  · simp [bufPrefix, h]
  · intro i h1 h2
    simp [bufPrefix] at h1
    simp [bufPrefix, bufGet, List.getD_eq_getElem?_getD, h1.2]

@[simp] theorem buildFrame_length (code : Byte) (payload : List Byte) :
    (buildFrame code payload).length = payload.length + 4 := by simp [buildFrame]

end Sys2Proof.Laws
end

