-- ==== Sys2Proof/Laws/Memory.lean ====
section
/-! SUPPORT. The laws of the store (20_memory R52, R61): read after write, the canonical form, block
writes. -/

namespace Sys2Proof.Laws
open Sys2Proof.Machine

theorem storeLookup_insert (a b : Nat) (v : Byte) (m : Store) :
    storeLookup (storeInsert a v m) b = if b = a then some v else storeLookup m b := by
  induction m with
  | nil => simp [storeInsert, storeLookup]
  | cons c r ih =>
    obtain ⟨x, w⟩ := c
    simp only [storeInsert]
    split
    · simp [storeLookup]
    · split
      · subst_vars; simp only [storeLookup]; split <;> simp_all
      · simp only [storeLookup, ih]; split <;> split <;> simp_all

/-- Reading after a write: the byte written at its address, the old byte elsewhere. -/
theorem storeRead_write (m : Store) (a b : Half) (v : Byte) :
    storeRead (storeWrite m a v) b = if b = a then v else storeRead m b := by
  simp only [storeRead, storeWrite, storeLookup_insert, ← BitVec.toNat_eq]
  split <;> simp

@[simp] theorem storeRead_write_same (m : Store) (a : Half) (v : Byte) :
    storeRead (storeWrite m a v) a = v := by simp [storeRead_write]

theorem storeRead_write_other (m : Store) {a b : Half} (v : Byte) (h : b ≠ a) :
    storeRead (storeWrite m a v) b = storeRead m b := by simp [storeRead_write, h]

theorem storeWfFrom_mono {lo lo' : Nat} {m : Store} (h : lo' ≤ lo) (hw : storeWfFrom lo m = true) :
    storeWfFrom lo' m = true := by
  cases m with
  | nil => rfl
  | cons c r =>
    obtain ⟨x, w⟩ := c
    simp only [storeWfFrom, Bool.and_eq_true, decide_eq_true_eq] at hw ⊢
    exact ⟨⟨le_trans h hw.1.1, hw.1.2⟩, hw.2⟩

theorem storeInsert_wfFrom {a : Nat} (v : Byte) (ha : a < 65536) :
    ∀ {lo : Nat} {m : Store}, lo ≤ a → storeWfFrom lo m = true →
      storeWfFrom lo (storeInsert a v m) = true
  | lo, [], hl, _ => by simp [storeInsert, storeWfFrom, hl, ha]
  | lo, (x, w) :: r, hl, hw => by
    simp only [storeWfFrom, Bool.and_eq_true, decide_eq_true_eq] at hw
    simp only [storeInsert]
    split
    · rename_i hx
      simp only [storeWfFrom, Bool.and_eq_true, decide_eq_true_eq]
      exact ⟨⟨hl, ha⟩, ⟨hx, hw.1.2⟩, hw.2⟩
    · split
      · subst_vars
        simp only [storeWfFrom, Bool.and_eq_true, decide_eq_true_eq]
        exact hw
      · simp only [storeWfFrom, Bool.and_eq_true, decide_eq_true_eq]
        exact ⟨hw.1, storeInsert_wfFrom v ha (by omega) hw.2⟩

/-- Every write keeps the canonical form. -/
theorem storeWrite_wf (m : Store) (a : Half) (v : Byte) (h : Memory.wf m = true) :
    Memory.wf (storeWrite m a v) = true :=
  storeInsert_wfFrom v a.isLt (Nat.zero_le _) h

theorem reset_store_wf : Memory.wf State.reset.store = true := rfl

theorem mem_storeInsert {a : Nat} {v : Byte} {m : Store} {c : Host.Cell} (h : c ∈ storeInsert a v m) :
    c = (a, v) ∨ c ∈ m := by
  induction m with
  | nil => simpa [storeInsert] using h
  | cons d r ih =>
    obtain ⟨x, w⟩ := d
    simp only [storeInsert] at h
    split at h
    · simpa using h
    · split at h
      · rcases List.mem_cons.1 h with h | h
        · exact .inl h
        · exact .inr (List.mem_cons_of_mem _ h)
      · rcases List.mem_cons.1 h with rfl | h
        · exact .inr List.mem_cons_self
        · exact (ih h).imp id (List.mem_cons_of_mem _)

/-! ## The device (00_scope R16 `STORE_SIZE`) -/

@[simp] theorem inDevice_iff (p : Params) (a : Half) : inDevice p a = true ↔ a.toNat < p.storeSize := by
  simp [inDevice]

/-- With the default size the device has every address (R52). -/
theorem inDevice_of_full {p : Params} (h : 65536 ≤ p.storeSize) (a : Half) : inDevice p a = true := by
  have := a.isLt; simp; omega

theorem deviceRead_inside {p : Params} {a : Half} (h : inDevice p a = true) (n : Nat) (m : Store) :
    deviceRead p n m a = storeRead m a := by simp only [deviceRead, h, if_true]

theorem deviceCell_inside {p : Params} {a : Half} (h : inDevice p a = true) (n : Nat) :
    deviceCell p n a = a := by simp only [deviceCell, h, if_true]

theorem deviceWrite_inside {p : Params} {a : Half} (h : inDevice p a = true) (n : Nat) (m : Store)
    (v : Byte) : deviceWrite p n m a v = storeWrite m a v := by
  simp only [deviceWrite, deviceCell_inside h, h, if_true]

/-- Everything a write does to the store: one cell of the device gets a byte, or nothing changes. -/
theorem deviceWrite_cases (p : Params) (n : Nat) (m : Store) (a : Half) (v : Byte) :
    deviceWrite p n m a v = m ∨
      ∃ w, inDevice p (deviceCell p n a) = true ∧
        deviceWrite p n m a v = storeWrite m (deviceCell p n a) w := by
  unfold deviceWrite
  split
  · exact .inr ⟨_, ‹_›, rfl⟩
  · exact .inl rfl

/-- A write leaves every cell but the one it reaches. -/
theorem storeRead_deviceWrite_other (p : Params) (n : Nat) (m : Store) {a b : Half} (v : Byte)
    (h : b ≠ deviceCell p n a) : storeRead (deviceWrite p n m a v) b = storeRead m b := by
  obtain e | ⟨w, -, e⟩ := deviceWrite_cases p n m a v <;> rw [e]
  exact storeRead_write_other m w h

theorem deviceWrite_wf (p : Params) (n : Nat) (m : Store) (a : Half) (v : Byte)
    (h : Memory.wf m = true) : Memory.wf (deviceWrite p n m a v) = true := by
  obtain e | ⟨w, -, e⟩ := deviceWrite_cases p n m a v <;> rw [e]
  · exact h
  · exact storeWrite_wf m _ w h

/-- A write makes no cell outside the device. -/
theorem deviceWrite_keys (p : Params) (n : Nat) (m : Store) (a : Half) (v : Byte)
    (h : ∀ c ∈ m, c.1 < p.storeSize) : ∀ c ∈ deviceWrite p n m a v, c.1 < p.storeSize := by
  obtain e | ⟨w, hc, e⟩ := deviceWrite_cases p n m a v <;> rw [e]
  · exact h
  · intro c hm
    rcases mem_storeInsert hm with rfl | hm
    · exact (inDevice_iff p _).1 hc
    · exact h c hm

/-! ## Blocks -/

@[simp] theorem deviceWriteBlock_nil (p : Params) (n : Nat) (m : Store) (a : Half) :
    deviceWriteBlock p n m a [] = m := rfl

/-- A block write, byte by byte. -/
theorem deviceWriteBlock_take_succ (p : Params) (n : Nat) (m : Store) (a : Half) (data : List Byte)
    (k : Nat) (h : k < data.length) :
    deviceWriteBlock p n m a (data.take (k + 1)) =
      deviceWrite p (n + k) (deviceWriteBlock p n m a (data.take k)) (blockAddr a k) (byteAt data k) := by
  simp only [deviceWriteBlock, List.take_succ_eq_append_getElem h, List.zipIdx_append,
    List.foldl_append]
  simp [Nat.min_eq_left (Nat.le_of_lt h), byteAt, h]

/-- What every byte of a block write keeps, the block write keeps. -/
theorem deviceWriteBlock_invariant {P : Store → Prop} {p : Params}
    (hP : ∀ n m a v, P m → P (deviceWrite p n m a v)) (n : Nat) (m : Store) (a : Half)
    (data : List Byte) (h : P m) : P (deviceWriteBlock p n m a data) := by
  unfold deviceWriteBlock
  generalize data.zipIdx = ps
  induction ps generalizing m with
  | nil => exact h
  | cons q r ih => exact ih _ (hP _ _ _ _ h)

/-- A block write leaves every cell but those its cycles reach. -/
theorem storeRead_deviceWriteBlock_other (p : Params) (n : Nat) (m : Store) (a b : Half)
    (data : List Byte) (h : ∀ k < data.length, b ≠ deviceCell p (n + k) (blockAddr a k)) :
    storeRead (deviceWriteBlock p n m a data) b = storeRead m b := by
  suffices H : ∀ k ≤ data.length,
      storeRead (deviceWriteBlock p n m a (data.take k)) b = storeRead m b by
    simpa using H data.length le_rfl
  intro k
  induction k with
  | zero => intro _; simp
  | succ k ih =>
    intro hk
    rw [deviceWriteBlock_take_succ _ _ _ _ _ _ (by omega),
      storeRead_deviceWrite_other _ _ _ _ (h k (by omega)), ih (by omega)]

theorem blockAddr_toNat (a : Half) (i : Nat) : (blockAddr a i).toNat = (a.toNat + i) % 65536 := by
  simp [blockAddr, BitVec.toNat_add, Nat.add_mod]

/-- `b` is the `k`-th address of a block exactly if it stands `k` behind its first one (R61). -/
theorem eq_blockAddr_iff (a b : Half) {k : Nat} (hk : k < 65536) :
    b = blockAddr a k ↔ (b - a).toNat = k := by
  have ha := a.isLt; have hb := b.isLt
  rw [← BitVec.toNat_inj, blockAddr_toNat, BitVec.toNat_sub]
  omega

/-- Reading after a block write of at most 65536 bytes to addresses the device has: the data inside the
block (which may wrap, R61), the old byte outside it. -/
theorem storeRead_deviceWriteBlock (p : Params) (n : Nat) (m : Store) (a b : Half) (data : List Byte)
    (h : data.length ≤ 65536) (hin : ∀ k < data.length, inDevice p (blockAddr a k) = true) :
    storeRead (deviceWriteBlock p n m a data) b =
      if (b - a).toNat < data.length then byteAt data (b - a).toNat else storeRead m b := by
  suffices H : ∀ k ≤ data.length, storeRead (deviceWriteBlock p n m a (data.take k)) b =
      if (b - a).toNat < k then byteAt data (b - a).toNat else storeRead m b by
    simpa using H data.length le_rfl
  intro k
  induction k with
  | zero => intro _; simp
  | succ k ih =>
    intro hk
    have hb := eq_blockAddr_iff a b (k := k) (by omega)
    rw [deviceWriteBlock_take_succ _ _ _ _ _ _ (by omega), deviceWrite_inside (hin k (by omega)),
      storeRead_write, ih (by omega)]
    by_cases hbk : b = blockAddr a k
    · rw [if_pos hbk, if_pos (by have := hb.1 hbk; omega), hb.1 hbk]
    · rw [if_neg hbk]
      have : (b - a).toNat ≠ k := fun e => hbk (hb.2 e)
      split <;> split <;> first | rfl | omega

@[simp] theorem deviceReadBlock_length (p : Params) (n : Nat) (m : Store) (a : Half) (k : Nat) :
    (deviceReadBlock p n m a k).length = k := by
  simp [deviceReadBlock]

theorem deviceReadBlock_succ (p : Params) (n : Nat) (m : Store) (a : Half) (k : Nat) :
    deviceReadBlock p n m a (k + 1) =
      deviceReadBlock p n m a k ++ [deviceRead p n m (blockAddr a k)] := by
  simp [deviceReadBlock, List.range_succ]

end Sys2Proof.Laws
end

