-- ==== Sys2Proof/Laws/PerInstr.lean ====
section
/-! SUPPORT. The family of facts stated for every instruction: its encoding has the code byte and the
length that `spec/opcode_table.json` gives its row. -/

namespace Sys2Proof.Laws.EncodedShape
open Sys2Proof.Machine

/-- The code byte of an encoded instruction, at the place its format gives (the table's `code_at`). -/
def codeByte : Encoded → Byte
  | .request f => byteAt f 1
  | .response f => byteAt f 1
  | .errorCode e => e
  | .busCycle out _ => byteAt out 0

/-- How many bytes SCFD receives or puts out for an encoded instruction. -/
def byteCount : Encoded → Nat
  | .request f => f.length
  | .response f => f.length
  | .errorCode _ => 1
  | .busCycle out _ => out.length

/-- The row's `match` value; an Unknown request carries its own code. -/
def rowCode : Instr → Byte
  | .readByte _ => 0x01
  | .writeByte _ _ => 0x02
  | .readAll _ _ => 0x03
  | .writeAll _ _ => 0x04
  | .clear _ => 0x05
  | .verify _ _ => 0x06
  | .saveProfile _ _ => 0x07
  | .loadProfile _ => 0x08
  | .unknown c _ => c
  | .ack => 0x10
  | .nack _ => 0x11
  | .readByteResult _ => 0x12
  | .readAllResult _ => 0x13
  | .verifyOk => 0x14
  | .verifyFail => 0x15
  | .error _ => 0x1F
  | .invalidCommand => 0x01
  | .timeout => 0x02
  | .checksum => 0x03
  | .busFailure => 0x04
  | .busRead _ _ => 0x03
  | .busWrite _ _ => 0x02

/-- The row's length: `frame_length` of a request, the payload's length and 4 of a response, one byte of
an error code, header and data of a bus cycle. -/
def rowLength : Instr → Nat
  | .readByte _ => 6
  | .writeByte _ _ => 7
  | .readAll _ _ => 8
  | .writeAll _ ds => 8 + ds.length
  | .clear _ => 6
  | .verify _ ds => 8 + ds.length
  | .saveProfile _ _ => 69
  | .loadProfile _ => 5
  | .unknown _ p => 4 + p.length
  | .ack => 4
  | .nack _ => 5
  | .readByteResult _ => 5
  | .readAllResult ds => 4 + ds.length
  | .verifyOk => 4
  | .verifyFail => 4
  | .error p => 4 + p.length
  | .invalidCommand => 1
  | .timeout => 1
  | .checksum => 1
  | .busFailure => 1
  | .busRead _ _ => 3
  | .busWrite _ _ => 4

/-- The encoding has its row's code byte and its row's length. -/
def Statement (i : Instr) : Prop :=
  i.wellFormed = true → codeByte (encode i) = rowCode i ∧ byteCount (encode i) = rowLength i

theorem readByte (addr : Half) : Statement (.readByte addr) := fun _ => ⟨rfl, rfl⟩

theorem writeByte (addr : Half) (data : Byte) : Statement (.writeByte addr data) := fun _ => ⟨rfl, rfl⟩

theorem readAll (addr size : Half) : Statement (.readAll addr size) := fun _ => ⟨rfl, rfl⟩

theorem writeAll (addr : Half) (data : List Byte) : Statement (.writeAll addr data) := fun _ =>
  ⟨rfl, by simp [byteCount, encode, rowLength, halfBytes]; omega⟩

theorem clear (size : Half) : Statement (.clear size) := fun _ => ⟨rfl, rfl⟩

theorem verify (addr : Half) (expected : List Byte) : Statement (.verify addr expected) := fun _ =>
  ⟨rfl, by simp [byteCount, encode, rowLength, halfBytes]; omega⟩

theorem saveProfile (id : Byte) (data : List Byte) : Statement (.saveProfile id data) := fun h => by
  have hl : data.length = 64 := of_decide_eq_true h
  exact ⟨rfl, by simp [byteCount, encode, rowLength, hl]⟩

theorem loadProfile (id : Byte) : Statement (.loadProfile id) := fun _ => ⟨rfl, rfl⟩

theorem unknown (code : Byte) (payload : List Byte) : Statement (.unknown code payload) := fun _ =>
  ⟨rfl, by simp [byteCount, encode, rowLength]; omega⟩

theorem ack : Statement .ack := fun _ => ⟨rfl, rfl⟩

theorem nack (err : Byte) : Statement (.nack err) := fun _ => ⟨rfl, rfl⟩

theorem readByteResult (data : Byte) : Statement (.readByteResult data) := fun _ => ⟨rfl, rfl⟩

theorem readAllResult (data : List Byte) : Statement (.readAllResult data) := fun _ =>
  ⟨rfl, by simp [byteCount, encode, rowLength]; omega⟩

theorem verifyOk : Statement .verifyOk := fun _ => ⟨rfl, rfl⟩

theorem verifyFail : Statement .verifyFail := fun _ => ⟨rfl, rfl⟩

theorem error (payload : List Byte) : Statement (.error payload) := fun _ =>
  ⟨rfl, by simp [byteCount, encode, rowLength]; omega⟩

theorem invalidCommand : Statement .invalidCommand := fun _ => ⟨rfl, rfl⟩

theorem timeout : Statement .timeout := fun _ => ⟨rfl, rfl⟩

theorem checksum : Statement .checksum := fun _ => ⟨rfl, rfl⟩

theorem busFailure : Statement .busFailure := fun _ => ⟨rfl, rfl⟩

theorem busRead (addr : Half) (len : Nat) : Statement (.busRead addr len) := fun _ => ⟨rfl, rfl⟩

theorem busWrite (addr : Half) (data : Byte) : Statement (.busWrite addr data) := fun _ => ⟨rfl, rfl⟩

end Sys2Proof.Laws.EncodedShape
end

