-- ==== Sys2Proof/Laws/State.lean ====
section
/-! SUPPORT. The fields each shared operation leaves alone or sets, one lemma per field, so that no later
proof unfolds the operation for a field it does not touch. -/

namespace Sys2Proof.Laws
open Sys2Proof.Machine

/-! ## observe -/

@[simp] theorem observe_trace (es : List Obs) (s : State) : (observe es s).trace = s.trace ++ es := rfl
@[simp] theorem observe_asmState (es : List Obs) (s : State) : (observe es s).asmState = s.asmState := rfl
@[simp] theorem observe_asmLen (es : List Obs) (s : State) : (observe es s).asmLen = s.asmLen := rfl
@[simp] theorem observe_asmBuf (es : List Obs) (s : State) : (observe es s).asmBuf = s.asmBuf := rfl
@[simp] theorem observe_frameReady (es : List Obs) (s : State) : (observe es s).frameReady = s.frameReady := rfl
@[simp] theorem observe_frameLen (es : List Obs) (s : State) : (observe es s).frameLen = s.frameLen := rfl
@[simp] theorem observe_frameBuf (es : List Obs) (s : State) : (observe es s).frameBuf = s.frameBuf := rfl
@[simp] theorem observe_dispState (es : List Obs) (s : State) : (observe es s).dispState = s.dispState := rfl
@[simp] theorem observe_reqCode (es : List Obs) (s : State) : (observe es s).reqCode = s.reqCode := rfl
@[simp] theorem observe_reqPlen (es : List Obs) (s : State) : (observe es s).reqPlen = s.reqPlen := rfl
@[simp] theorem observe_reqAddr (es : List Obs) (s : State) : (observe es s).reqAddr = s.reqAddr := rfl
@[simp] theorem observe_reqSize (es : List Obs) (s : State) : (observe es s).reqSize = s.reqSize := rfl
@[simp] theorem observe_reqId (es : List Obs) (s : State) : (observe es s).reqId = s.reqId := rfl
@[simp] theorem observe_dataBuf (es : List Obs) (s : State) : (observe es s).dataBuf = s.dataBuf := rfl
@[simp] theorem observe_respBuf (es : List Obs) (s : State) : (observe es s).respBuf = s.respBuf := rfl
@[simp] theorem observe_respLen (es : List Obs) (s : State) : (observe es s).respLen = s.respLen := rfl
@[simp] theorem observe_busStatus (es : List Obs) (s : State) : (observe es s).busStatus = s.busStatus := rfl
@[simp] theorem observe_blkIndex (es : List Obs) (s : State) : (observe es s).blkIndex = s.blkIndex := rfl
@[simp] theorem observe_txIndex (es : List Obs) (s : State) : (observe es s).txIndex = s.txIndex := rfl
@[simp] theorem observe_busLock (es : List Obs) (s : State) : (observe es s).busLock = s.busLock := rfl
@[simp] theorem observe_txLock (es : List Obs) (s : State) : (observe es s).txLock = s.txLock := rfl
@[simp] theorem observe_cs (es : List Obs) (s : State) : (observe es s).cs = s.cs := rfl
@[simp] theorem observe_settling (es : List Obs) (s : State) : (observe es s).settling = s.settling := rfl
@[simp] theorem observe_store (es : List Obs) (s : State) : (observe es s).store = s.store := rfl
@[simp] theorem observe_plan (es : List Obs) (s : State) : (observe es s).plan = s.plan := rfl
@[simp] theorem observe_cycle (es : List Obs) (s : State) : (observe es s).cycle = s.cycle := rfl
@[simp] theorem observe_readDone (es : List Obs) (s : State) : (observe es s).readDone = s.readDone := rfl
@[simp] theorem observe_params (es : List Obs) (s : State) : (observe es s).params = s.params := rfl
@[simp] theorem observe_busReady (es : List Obs) (s : State) : (observe es s).busReady = s.busReady := rfl
@[simp] theorem observe_txReady (es : List Obs) (s : State) : (observe es s).txReady = s.txReady := rfl
@[simp] theorem observe_schedule (es : List Obs) (s : State) : (observe es s).schedule = s.schedule := rfl
@[simp] theorem observe_answers (es : List Obs) (s : State) : (observe es s).answers = s.answers := rfl
@[simp] theorem observe_draws (es : List Obs) (s : State) : (observe es s).draws = s.draws := rfl

/-! ## popStatus -/

@[simp] theorem popStatus_asmState (s : State) : (popStatus s).asmState = s.asmState := rfl
@[simp] theorem popStatus_asmLen (s : State) : (popStatus s).asmLen = s.asmLen := rfl
@[simp] theorem popStatus_asmBuf (s : State) : (popStatus s).asmBuf = s.asmBuf := rfl
@[simp] theorem popStatus_frameReady (s : State) : (popStatus s).frameReady = s.frameReady := rfl
@[simp] theorem popStatus_frameLen (s : State) : (popStatus s).frameLen = s.frameLen := rfl
@[simp] theorem popStatus_frameBuf (s : State) : (popStatus s).frameBuf = s.frameBuf := rfl
@[simp] theorem popStatus_dispState (s : State) : (popStatus s).dispState = s.dispState := rfl
@[simp] theorem popStatus_reqCode (s : State) : (popStatus s).reqCode = s.reqCode := rfl
@[simp] theorem popStatus_reqPlen (s : State) : (popStatus s).reqPlen = s.reqPlen := rfl
@[simp] theorem popStatus_reqAddr (s : State) : (popStatus s).reqAddr = s.reqAddr := rfl
@[simp] theorem popStatus_reqSize (s : State) : (popStatus s).reqSize = s.reqSize := rfl
@[simp] theorem popStatus_reqId (s : State) : (popStatus s).reqId = s.reqId := rfl
@[simp] theorem popStatus_dataBuf (s : State) : (popStatus s).dataBuf = s.dataBuf := rfl
@[simp] theorem popStatus_respBuf (s : State) : (popStatus s).respBuf = s.respBuf := rfl
@[simp] theorem popStatus_respLen (s : State) : (popStatus s).respLen = s.respLen := rfl
@[simp] theorem popStatus_busStatus (s : State) : (popStatus s).busStatus = s.busStatus := rfl
@[simp] theorem popStatus_blkIndex (s : State) : (popStatus s).blkIndex = s.blkIndex := rfl
@[simp] theorem popStatus_txIndex (s : State) : (popStatus s).txIndex = s.txIndex := rfl
@[simp] theorem popStatus_busLock (s : State) : (popStatus s).busLock = s.busLock := rfl
@[simp] theorem popStatus_txLock (s : State) : (popStatus s).txLock = s.txLock := rfl
@[simp] theorem popStatus_cs (s : State) : (popStatus s).cs = s.cs := rfl
@[simp] theorem popStatus_settling (s : State) : (popStatus s).settling = s.settling := rfl
@[simp] theorem popStatus_store (s : State) : (popStatus s).store = s.store := rfl
@[simp] theorem popStatus_plan (s : State) : (popStatus s).plan = s.plan := rfl
@[simp] theorem popStatus_cycle (s : State) : (popStatus s).cycle = s.cycle := rfl
@[simp] theorem popStatus_readDone (s : State) : (popStatus s).readDone = s.readDone := rfl
@[simp] theorem popStatus_params (s : State) : (popStatus s).params = s.params := rfl
@[simp] theorem popStatus_busReady (s : State) : (popStatus s).busReady = s.busReady := rfl
@[simp] theorem popStatus_txReady (s : State) : (popStatus s).txReady = s.txReady := rfl
@[simp] theorem popStatus_schedule (s : State) : (popStatus s).schedule = s.schedule := rfl
@[simp] theorem popStatus_answers (s : State) : (popStatus s).answers = s.answers.tail := rfl
@[simp] theorem popStatus_draws (s : State) : (popStatus s).draws = s.draws + 1 := rfl
@[simp] theorem popStatus_trace (s : State) : (popStatus s).trace = s.trace := rfl

/-! ## releaseBus and raiseNack -/

theorem releaseBus_busLock (s : State) : (releaseBus s).busLock = if s.busLock = .heldBy .dispatcher then .free else s.busLock := by
  unfold releaseBus; split <;> simp_all
theorem releaseBus_trace (s : State) : (releaseBus s).trace = if s.busLock = .heldBy .dispatcher then s.trace ++ [.relBus] else s.trace := by
  unfold releaseBus; split <;> simp_all
@[simp] theorem releaseBus_asmState (s : State) : (releaseBus s).asmState = s.asmState := by unfold releaseBus; split <;> rfl
@[simp] theorem releaseBus_asmLen (s : State) : (releaseBus s).asmLen = s.asmLen := by unfold releaseBus; split <;> rfl
@[simp] theorem releaseBus_asmBuf (s : State) : (releaseBus s).asmBuf = s.asmBuf := by unfold releaseBus; split <;> rfl
@[simp] theorem releaseBus_frameReady (s : State) : (releaseBus s).frameReady = s.frameReady := by unfold releaseBus; split <;> rfl
@[simp] theorem releaseBus_frameLen (s : State) : (releaseBus s).frameLen = s.frameLen := by unfold releaseBus; split <;> rfl
@[simp] theorem releaseBus_frameBuf (s : State) : (releaseBus s).frameBuf = s.frameBuf := by unfold releaseBus; split <;> rfl
@[simp] theorem releaseBus_dispState (s : State) : (releaseBus s).dispState = s.dispState := by unfold releaseBus; split <;> rfl
@[simp] theorem releaseBus_reqCode (s : State) : (releaseBus s).reqCode = s.reqCode := by unfold releaseBus; split <;> rfl
@[simp] theorem releaseBus_reqPlen (s : State) : (releaseBus s).reqPlen = s.reqPlen := by unfold releaseBus; split <;> rfl
@[simp] theorem releaseBus_reqAddr (s : State) : (releaseBus s).reqAddr = s.reqAddr := by unfold releaseBus; split <;> rfl
@[simp] theorem releaseBus_reqSize (s : State) : (releaseBus s).reqSize = s.reqSize := by unfold releaseBus; split <;> rfl
@[simp] theorem releaseBus_reqId (s : State) : (releaseBus s).reqId = s.reqId := by unfold releaseBus; split <;> rfl
@[simp] theorem releaseBus_dataBuf (s : State) : (releaseBus s).dataBuf = s.dataBuf := by unfold releaseBus; split <;> rfl
@[simp] theorem releaseBus_respBuf (s : State) : (releaseBus s).respBuf = s.respBuf := by unfold releaseBus; split <;> rfl
@[simp] theorem releaseBus_respLen (s : State) : (releaseBus s).respLen = s.respLen := by unfold releaseBus; split <;> rfl
@[simp] theorem releaseBus_busStatus (s : State) : (releaseBus s).busStatus = s.busStatus := by unfold releaseBus; split <;> rfl
@[simp] theorem releaseBus_blkIndex (s : State) : (releaseBus s).blkIndex = s.blkIndex := by unfold releaseBus; split <;> rfl
@[simp] theorem releaseBus_txIndex (s : State) : (releaseBus s).txIndex = s.txIndex := by unfold releaseBus; split <;> rfl
@[simp] theorem releaseBus_txLock (s : State) : (releaseBus s).txLock = s.txLock := by unfold releaseBus; split <;> rfl
@[simp] theorem releaseBus_cs (s : State) : (releaseBus s).cs = s.cs := by unfold releaseBus; split <;> rfl
@[simp] theorem releaseBus_settling (s : State) : (releaseBus s).settling = s.settling := by unfold releaseBus; split <;> rfl
@[simp] theorem releaseBus_store (s : State) : (releaseBus s).store = s.store := by unfold releaseBus; split <;> rfl
@[simp] theorem releaseBus_plan (s : State) : (releaseBus s).plan = s.plan := by unfold releaseBus; split <;> rfl
@[simp] theorem releaseBus_cycle (s : State) : (releaseBus s).cycle = s.cycle := by unfold releaseBus; split <;> rfl
@[simp] theorem releaseBus_readDone (s : State) : (releaseBus s).readDone = s.readDone := by unfold releaseBus; split <;> rfl
@[simp] theorem releaseBus_params (s : State) : (releaseBus s).params = s.params := by unfold releaseBus; split <;> rfl
@[simp] theorem releaseBus_busReady (s : State) : (releaseBus s).busReady = s.busReady := by unfold releaseBus; split <;> rfl
@[simp] theorem releaseBus_txReady (s : State) : (releaseBus s).txReady = s.txReady := by unfold releaseBus; split <;> rfl
@[simp] theorem releaseBus_schedule (s : State) : (releaseBus s).schedule = s.schedule := by unfold releaseBus; split <;> rfl
@[simp] theorem releaseBus_answers (s : State) : (releaseBus s).answers = s.answers := by unfold releaseBus; split <;> rfl
@[simp] theorem releaseBus_draws (s : State) : (releaseBus s).draws = s.draws := by unfold releaseBus; split <;> rfl
@[simp] theorem raiseNack_plan (e : Byte) (s : State) : (raiseNack e s).plan = .reply Config.codeNack [e] := rfl
@[simp] theorem raiseNack_dispState (e : Byte) (s : State) : (raiseNack e s).dispState = .respond := rfl
@[simp] theorem raiseNack_asmState (e : Byte) (s : State) : (raiseNack e s).asmState = s.asmState := by simp [raiseNack]
@[simp] theorem raiseNack_asmLen (e : Byte) (s : State) : (raiseNack e s).asmLen = s.asmLen := by simp [raiseNack]
@[simp] theorem raiseNack_asmBuf (e : Byte) (s : State) : (raiseNack e s).asmBuf = s.asmBuf := by simp [raiseNack]
@[simp] theorem raiseNack_frameReady (e : Byte) (s : State) : (raiseNack e s).frameReady = s.frameReady := by simp [raiseNack]
@[simp] theorem raiseNack_frameLen (e : Byte) (s : State) : (raiseNack e s).frameLen = s.frameLen := by simp [raiseNack]
@[simp] theorem raiseNack_frameBuf (e : Byte) (s : State) : (raiseNack e s).frameBuf = s.frameBuf := by simp [raiseNack]
@[simp] theorem raiseNack_reqCode (e : Byte) (s : State) : (raiseNack e s).reqCode = s.reqCode := by simp [raiseNack]
@[simp] theorem raiseNack_reqPlen (e : Byte) (s : State) : (raiseNack e s).reqPlen = s.reqPlen := by simp [raiseNack]
@[simp] theorem raiseNack_reqAddr (e : Byte) (s : State) : (raiseNack e s).reqAddr = s.reqAddr := by simp [raiseNack]
@[simp] theorem raiseNack_reqSize (e : Byte) (s : State) : (raiseNack e s).reqSize = s.reqSize := by simp [raiseNack]
@[simp] theorem raiseNack_reqId (e : Byte) (s : State) : (raiseNack e s).reqId = s.reqId := by simp [raiseNack]
@[simp] theorem raiseNack_dataBuf (e : Byte) (s : State) : (raiseNack e s).dataBuf = s.dataBuf := by simp [raiseNack]
@[simp] theorem raiseNack_respBuf (e : Byte) (s : State) : (raiseNack e s).respBuf = s.respBuf := by simp [raiseNack]
@[simp] theorem raiseNack_respLen (e : Byte) (s : State) : (raiseNack e s).respLen = s.respLen := by simp [raiseNack]
@[simp] theorem raiseNack_busStatus (e : Byte) (s : State) : (raiseNack e s).busStatus = s.busStatus := by simp [raiseNack]
@[simp] theorem raiseNack_blkIndex (e : Byte) (s : State) : (raiseNack e s).blkIndex = s.blkIndex := by simp [raiseNack]
@[simp] theorem raiseNack_txIndex (e : Byte) (s : State) : (raiseNack e s).txIndex = s.txIndex := by simp [raiseNack]
@[simp] theorem raiseNack_txLock (e : Byte) (s : State) : (raiseNack e s).txLock = s.txLock := by simp [raiseNack]
@[simp] theorem raiseNack_cs (e : Byte) (s : State) : (raiseNack e s).cs = s.cs := by simp [raiseNack]
@[simp] theorem raiseNack_settling (e : Byte) (s : State) : (raiseNack e s).settling = s.settling := by simp [raiseNack]
@[simp] theorem raiseNack_store (e : Byte) (s : State) : (raiseNack e s).store = s.store := by simp [raiseNack]
@[simp] theorem raiseNack_cycle (e : Byte) (s : State) : (raiseNack e s).cycle = s.cycle := by simp [raiseNack]
@[simp] theorem raiseNack_readDone (e : Byte) (s : State) : (raiseNack e s).readDone = s.readDone := by simp [raiseNack]
@[simp] theorem raiseNack_params (e : Byte) (s : State) : (raiseNack e s).params = s.params := by simp [raiseNack]
@[simp] theorem raiseNack_busReady (e : Byte) (s : State) : (raiseNack e s).busReady = s.busReady := by simp [raiseNack]
@[simp] theorem raiseNack_txReady (e : Byte) (s : State) : (raiseNack e s).txReady = s.txReady := by simp [raiseNack]
@[simp] theorem raiseNack_schedule (e : Byte) (s : State) : (raiseNack e s).schedule = s.schedule := by simp [raiseNack]
@[simp] theorem raiseNack_answers (e : Byte) (s : State) : (raiseNack e s).answers = s.answers := by simp [raiseNack]
@[simp] theorem raiseNack_draws (e : Byte) (s : State) : (raiseNack e s).draws = s.draws := by simp [raiseNack]

/-! ## pushByte: the RX agent writes only the assembler and the slot (10_state R22 to R29) -/

@[simp] theorem pushByte_dispState (b : Byte) (s : State) : (pushByte b s).dispState = s.dispState := by
  simp only [pushByte, asmRestart, handOff]; split <;> split <;> (try split) <;> (try split) <;> rfl
@[simp] theorem pushByte_reqCode (b : Byte) (s : State) : (pushByte b s).reqCode = s.reqCode := by
  simp only [pushByte, asmRestart, handOff]; split <;> split <;> (try split) <;> (try split) <;> rfl
@[simp] theorem pushByte_reqPlen (b : Byte) (s : State) : (pushByte b s).reqPlen = s.reqPlen := by
  simp only [pushByte, asmRestart, handOff]; split <;> split <;> (try split) <;> (try split) <;> rfl
@[simp] theorem pushByte_reqAddr (b : Byte) (s : State) : (pushByte b s).reqAddr = s.reqAddr := by
  simp only [pushByte, asmRestart, handOff]; split <;> split <;> (try split) <;> (try split) <;> rfl
@[simp] theorem pushByte_reqSize (b : Byte) (s : State) : (pushByte b s).reqSize = s.reqSize := by
  simp only [pushByte, asmRestart, handOff]; split <;> split <;> (try split) <;> (try split) <;> rfl
@[simp] theorem pushByte_reqId (b : Byte) (s : State) : (pushByte b s).reqId = s.reqId := by
  simp only [pushByte, asmRestart, handOff]; split <;> split <;> (try split) <;> (try split) <;> rfl
@[simp] theorem pushByte_dataBuf (b : Byte) (s : State) : (pushByte b s).dataBuf = s.dataBuf := by
  simp only [pushByte, asmRestart, handOff]; split <;> split <;> (try split) <;> (try split) <;> rfl
@[simp] theorem pushByte_respBuf (b : Byte) (s : State) : (pushByte b s).respBuf = s.respBuf := by
  simp only [pushByte, asmRestart, handOff]; split <;> split <;> (try split) <;> (try split) <;> rfl
@[simp] theorem pushByte_respLen (b : Byte) (s : State) : (pushByte b s).respLen = s.respLen := by
  simp only [pushByte, asmRestart, handOff]; split <;> split <;> (try split) <;> (try split) <;> rfl
@[simp] theorem pushByte_busStatus (b : Byte) (s : State) : (pushByte b s).busStatus = s.busStatus := by
  simp only [pushByte, asmRestart, handOff]; split <;> split <;> (try split) <;> (try split) <;> rfl
@[simp] theorem pushByte_blkIndex (b : Byte) (s : State) : (pushByte b s).blkIndex = s.blkIndex := by
  simp only [pushByte, asmRestart, handOff]; split <;> split <;> (try split) <;> (try split) <;> rfl
@[simp] theorem pushByte_txIndex (b : Byte) (s : State) : (pushByte b s).txIndex = s.txIndex := by
  simp only [pushByte, asmRestart, handOff]; split <;> split <;> (try split) <;> (try split) <;> rfl
@[simp] theorem pushByte_busLock (b : Byte) (s : State) : (pushByte b s).busLock = s.busLock := by
  simp only [pushByte, asmRestart, handOff]; split <;> split <;> (try split) <;> (try split) <;> rfl
@[simp] theorem pushByte_txLock (b : Byte) (s : State) : (pushByte b s).txLock = s.txLock := by
  simp only [pushByte, asmRestart, handOff]; split <;> split <;> (try split) <;> (try split) <;> rfl
@[simp] theorem pushByte_cs (b : Byte) (s : State) : (pushByte b s).cs = s.cs := by
  simp only [pushByte, asmRestart, handOff]; split <;> split <;> (try split) <;> (try split) <;> rfl
@[simp] theorem pushByte_settling (b : Byte) (s : State) : (pushByte b s).settling = s.settling := by
  simp only [pushByte, asmRestart, handOff]; split <;> split <;> (try split) <;> (try split) <;> rfl
@[simp] theorem pushByte_store (b : Byte) (s : State) : (pushByte b s).store = s.store := by
  simp only [pushByte, asmRestart, handOff]; split <;> split <;> (try split) <;> (try split) <;> rfl
@[simp] theorem pushByte_plan (b : Byte) (s : State) : (pushByte b s).plan = s.plan := by
  simp only [pushByte, asmRestart, handOff]; split <;> split <;> (try split) <;> (try split) <;> rfl
@[simp] theorem pushByte_cycle (b : Byte) (s : State) : (pushByte b s).cycle = s.cycle := by
  simp only [pushByte, asmRestart, handOff]; split <;> split <;> (try split) <;> (try split) <;> rfl
@[simp] theorem pushByte_readDone (b : Byte) (s : State) : (pushByte b s).readDone = s.readDone := by
  simp only [pushByte, asmRestart, handOff]; split <;> split <;> (try split) <;> (try split) <;> rfl
@[simp] theorem pushByte_params (b : Byte) (s : State) : (pushByte b s).params = s.params := by
  simp only [pushByte, asmRestart, handOff]; split <;> split <;> (try split) <;> (try split) <;> rfl
@[simp] theorem pushByte_busReady (b : Byte) (s : State) : (pushByte b s).busReady = s.busReady := by
  simp only [pushByte, asmRestart, handOff]; split <;> split <;> (try split) <;> (try split) <;> rfl
@[simp] theorem pushByte_txReady (b : Byte) (s : State) : (pushByte b s).txReady = s.txReady := by
  simp only [pushByte, asmRestart, handOff]; split <;> split <;> (try split) <;> (try split) <;> rfl
@[simp] theorem pushByte_schedule (b : Byte) (s : State) : (pushByte b s).schedule = s.schedule := by
  simp only [pushByte, asmRestart, handOff]; split <;> split <;> (try split) <;> (try split) <;> rfl
@[simp] theorem pushByte_answers (b : Byte) (s : State) : (pushByte b s).answers = s.answers := by
  simp only [pushByte, asmRestart, handOff]; split <;> split <;> (try split) <;> (try split) <;> rfl
@[simp] theorem pushByte_draws (b : Byte) (s : State) : (pushByte b s).draws = s.draws := by
  simp only [pushByte, asmRestart, handOff]; split <;> split <;> (try split) <;> (try split) <;> rfl
@[simp] theorem pushByte_trace (b : Byte) (s : State) : (pushByte b s).trace = s.trace := by
  simp only [pushByte, asmRestart, handOff]; split <;> split <;> (try split) <;> (try split) <;> rfl

end Sys2Proof.Laws
end

