-- ==== Sys2Proof/Laws/Runs.lean ====
section
/-! SUPPORT. Runs of turns: how `runUntil` composes, and what a run of the dispatcher does when nothing
else moves: one bus cycle, a block write, a block read, and the sending of a response. -/

namespace Sys2Proof.Laws
open Sys2Proof.Machine Sys2Proof.Safety

/-! ## Composition -/

theorem runUntil_of_stop {stop : State → Bool} {s : State} (h : stop s = true) (n : Nat) :
    runUntil stop n s = s := by
  cases n <;> simp [runUntil, h]

theorem runUntil_turn {stop : State → Bool} {s : State} (h : stop s = false) (n : Nat) :
    runUntil stop (n + 1) s = runUntil stop n (turn s) := by simp [runUntil, h]

/-- An invariant of every turn is an invariant of every run. -/
theorem runUntil_invariant {P : State → Prop} (hP : ∀ s, P s → P (turn s)) (stop : State → Bool) :
    ∀ n s, P s → P (runUntil stop n s)
  | 0, _, h => h
  | n + 1, s, h => by
    unfold runUntil
    split
    · exact h
    · exact runUntil_invariant hP stop n _ (hP s h)

/-- The stop test of a protocol cycle. -/
abbrev atIdle (s : State) : Bool := s.dispState = .idle

/-- The stop test of a bus cycle. -/
abbrev busDone (s : State) : Bool := s.cycle.isNone && !s.settling

/-! ## Statuses -/

theorem popStatuses_eq (k : Nat) (s : State) :
    popStatuses k s = { s with answers := s.answers.drop k, draws := s.draws + k } := by
  induction k generalizing s with
  | zero => simp [popStatuses]
  | succ k ih => rw [popStatuses, ih]; simp [popStatus, Nat.add_comm k, Nat.add_assoc]

theorem popStatuses_succ (k : Nat) (s : State) :
    popStatuses (k + 1) s = popStatus (popStatuses k s) := by
  rw [popStatuses_eq, popStatuses_eq]; simp [popStatus, Nat.add_assoc]

/-- The status of the next cycle depends only on `answers` and `draws`. -/
theorem nextStatus_congr {s t : State} (ha : s.answers = t.answers) (hd : s.draws = t.draws) :
    nextStatus s = nextStatus t := by
  unfold nextStatus; rw [ha, hd]

/-! ## Sending a response (45 R210) -/

/-- A run of the dispatcher alone takes the dispatcher's turns. -/
theorem turn_of_no_schedule {s : State} (h : s.schedule = []) : turn s = dispatcherTurn s := by
  simp [turn, h]

theorem run_txRun (k m : Nat) (s : State) (hs : s.schedule = []) (hset : s.settling = false)
    (hc : s.cycle = none) (hd : s.dispState = .txRun) (hr : s.txReady = true)
    (hk : s.txIndex + k = s.respLen) :
    runUntil atIdle (k + 2 + m) s =
      { s with txIndex := s.respLen, txLock := .free, frameReady := false, dispState := .idle,
               trace := s.trace ++
                 (List.range k).map (fun i => Obs.tx (bufGet s.respBuf (s.txIndex + i))) ++ [.relTx] } := by
  induction k generalizing s with
  | zero =>
    have h1 : turn s = releaseTx s := by
      rw [turn_of_no_schedule hs]; simp [dispatcherTurn, hset, hc, hd]; omega
    rw [show 0 + 2 + m = (m + 1) + 1 by omega, runUntil_turn (by simp [atIdle, hd]), h1,
      runUntil_turn (by simp [atIdle, releaseTx]), turn_of_no_schedule (by simp [releaseTx, hs])]
    rw [show dispatcherTurn (releaseTx s) = endCycle (releaseTx s) by
      simp [dispatcherTurn, releaseTx, hset, hc]]
    rw [runUntil_of_stop (by simp [endCycle])]
    simp [endCycle, releaseTx, observe, ← hk]
  | succ k ih =>
    have h1 : turn s = emitByte s := by
      rw [turn_of_no_schedule hs]
      simp [dispatcherTurn, hset, hc, hd, hr]; omega
    rw [show k + 1 + 2 + m = (k + 2 + m) + 1 by omega, runUntil_turn (by simp [atIdle, hd]), h1,
      ih (emitByte s) (by simp [emitByte, hs]) (by simp [emitByte, hset]) (by simp [emitByte, hc])
        (by simp [emitByte, hd]) (by simp [emitByte, hr]) (by simp [emitByte]; omega)]
    simp [emitByte, observe, List.range_succ_eq_map, Function.comp_def, Nat.add_assoc, Nat.add_comm 1]

/-- From a built response to the end of the cycle. -/
theorem run_respondWith (code : Byte) (payload : List Byte) (m : Nat) (s : State)
    (hs : s.schedule = []) (hset : s.settling = false) (hc : s.cycle = none)
    (hr : s.txReady = true) (hl : s.txLock = .free) (hp : payload.length ≤ 252) :
    runUntil atIdle (payload.length + 7 + m) (respondWith code payload s) =
      responded code payload s := by
  have h1 : turn (respondWith code payload s) = acquireTx (respondWith code payload s) := by
    rw [turn_of_no_schedule (by simp [respondWith, hs])]
    simp [dispatcherTurn, respondWith, hset, hc, hl]
  rw [show payload.length + 7 + m = (payload.length + 4 + 2 + m) + 1 by omega,
    runUntil_turn (by simp [atIdle, respondWith]), h1,
    run_txRun _ _ _ (by simp [acquireTx, respondWith, hs]) (by simp [acquireTx, respondWith, hset])
      (by simp [acquireTx, respondWith, hc]) (by simp [acquireTx])
      (by simp [acquireTx, respondWith, hr]) (by simp [acquireTx, respondWith])]
  have hmap : (List.range (payload.length + 4)).map
      (fun i => Obs.tx (bufGet (bufOverwrite s.respBuf (buildFrame code payload)) i)) =
      (buildFrame code payload).map .tx := by
    have h2 := bufPrefix_overwrite s.respBuf (buildFrame code payload) (by simp; omega)
    rw [bufPrefix_eq_map _ _ (by simp; omega), buildFrame_length] at h2
    conv_rhs => rw [← h2]
    simp [Function.comp_def]
  simp [acquireTx, respondWith, responded, sendEvents, observe, hl, hmap]

/-! ## Bus cycles (43 R182 to R191) -/

theorem nextOp_bus {s : State} {p : Primitive} {r : ReplyRule} (hp : s.plan = .bus p r)
    (hb : s.busStatus = .ok) : nextOp s = nextCycle p s.blkIndex s.readDone := by
  simp [nextOp, hp, hb]

/-- A stop test that does not stop a bus cycle or a settle delay under way in `d`. -/
def KeepsGoing (stop : State → Bool) (d : DispState) : Prop :=
  ∀ t : State, t.cycle.isSome = true ∨ t.settling = true → t.dispState = d → stop t = false

theorem keepsGoing_atIdle : KeepsGoing atIdle .busRun := by
  intro t _ h; simp [atIdle, h]

theorem keepsGoing_busDone (d : DispState) : KeepsGoing busDone d := by
  rintro t (h | h) _ <;> simp [busDone, h]
  cases h2 : t.cycle <;> simp_all

/-- The header and data bytes SCFD puts out. -/
theorem run_outBytes {stop : State → Bool} (op : BusOp) (st : CycleStatus) (m : Nat) (rest : List Byte)
    (p : Nat) (s : State) (hgo : KeepsGoing stop s.dispState) (hs : s.schedule = [])
    (hset : s.settling = false) (hr : s.busReady = true)
    (hc : s.cycle = some { op := op, pos := p, status := st })
    (hrest : (busOutBytes op).drop p = rest) :
    runUntil stop (rest.length + m) s =
      runUntil stop m { s with
        cycle := some { op := op, pos := p + rest.length, status := st },
        trace := s.trace ++ rest.map .busOut } := by
  induction rest generalizing p s with
  | nil => simp [← hc]
  | cons b rest ih =>
    have hp : p < (busOutBytes op).length := by
      by_contra h
      rw [List.drop_eq_nil_of_le (by omega)] at hrest
      cases hrest
    have hb : byteAt (busOutBytes op) p = b ∧ (busOutBytes op).drop (p + 1) = rest := by
      rw [List.drop_eq_getElem_cons hp] at hrest
      injection hrest with h1 h2
      exact ⟨by simp [byteAt, hp, h1], h2⟩
    have h1 : turn s = { s with
        cycle := some { op := op, pos := p + 1, status := st },
        trace := s.trace ++ [.busOut b] } := by
      rw [turn_of_no_schedule hs]
      simp [dispatcherTurn, hset, hr, hc, cycleTurn, hp, observe, hb.1]
    rw [show (b :: rest).length + m = rest.length + m + 1 by simp; omega,
      runUntil_turn (hgo s (by simp [hc]) rfl), h1]
    rw [ih (p + 1) { s with
        cycle := some { op := op, pos := p + 1, status := st },
        trace := s.trace ++ [.busOut b] } hgo hs hset hr rfl hb.2]
    simp [Nat.add_assoc, Nat.add_comm 1]

/-- One good write cycle with its settle delay, from its select on (R185, R187, R189). -/
theorem run_writeCycle_ok {stop : State → Bool} (a : Half) (d : Byte) (m : Nat) (s : State)
    (hgo : KeepsGoing stop s.dispState) (hs : s.schedule = []) (hset : s.settling = false)
    (hr : s.busReady = true) (hl : s.busLock = .heldBy .dispatcher) (hcs : s.cs = .deasserted)
    (hc : s.cycle = none) (hst : nextStatus s = .ok) :
    runUntil stop (6 + m) (selectCycle (.write a d) s) =
      runUntil stop m { popStatus s with
        store := writeNow s a d, blkIndex := s.blkIndex + 1,
        trace := s.trace ++ writeEvents a d } := by
  rw [show 6 + m = (busOutBytes (.write a d)).length + (m + 2) by simp [busOutBytes, halfBytes]; omega]
  rw [run_outBytes (.write a d) .ok (m + 2) (busOutBytes (.write a d)) 0 (selectCycle (.write a d) s)
    (by simpa [selectCycle, hl] using hgo) (by simp [selectCycle, hl, hs])
    (by simp [selectCycle, hl, hset]) (by simp [selectCycle, hl, hr])
    (by simp [selectCycle, hl, hst]) rfl]
  rw [runUntil_turn (hgo _ (by simp) (by simp [selectCycle, hl])), runUntil_turn]
  · congr 1
    simp only [selectCycle, hl, if_true]
    rw [turn_of_no_schedule, turn_of_no_schedule]
    · simp [dispatcherTurn, hset, hr, cycleTurn, finishCycle, observe, endSettle, hcs, hc,
        busOutBytes, halfBytes, writeEvents, Config.busOpWrite, writeNow]
    · simp [hs]
    · rw [turn_of_no_schedule (by simp [hs])]
      simp [dispatcherTurn, hset, hr, cycleTurn, finishCycle, observe, hs]
  · apply hgo
    · right
      rw [turn_of_no_schedule (by simp [selectCycle, hl, hs])]
      simp [dispatcherTurn, selectCycle, hl, hset, hr, cycleTurn, finishCycle, observe]
    · rw [turn_of_no_schedule (by simp [selectCycle, hl, hs])]
      simp [dispatcherTurn, selectCycle, hl, hset, hr, cycleTurn, finishCycle, observe]

/-- One failed write cycle, from its select on (R190, R191, R59). -/
theorem run_writeCycle_fail {stop : State → Bool} (a : Half) (d : Byte) (m : Nat) (s : State)
    (hgo : KeepsGoing stop s.dispState) (hs : s.schedule = []) (hset : s.settling = false)
    (hr : s.busReady = true) (hl : s.busLock = .heldBy .dispatcher) (hcs : s.cs = .deasserted)
    (hc : s.cycle = none) (hst : nextStatus s = .fail) :
    runUntil stop (5 + m) (selectCycle (.write a d) s) =
      runUntil stop m { popStatus s with
        store := writeNow s a (Config.freeByte (s.draws + 1)),
        draws := s.draws + 2, busStatus := .fail,
        trace := s.trace ++ writeFailEvents a d } := by
  rw [show 5 + m = (busOutBytes (.write a d)).length + (m + 1) by simp [busOutBytes, halfBytes]; omega]
  rw [run_outBytes (.write a d) .fail (m + 1) (busOutBytes (.write a d)) 0 (selectCycle (.write a d) s)
    (by simpa [selectCycle, hl] using hgo) (by simp [selectCycle, hl, hs])
    (by simp [selectCycle, hl, hset]) (by simp [selectCycle, hl, hr])
    (by simp [selectCycle, hl, hst]) rfl]
  rw [runUntil_turn (hgo _ (by simp) (by simp [selectCycle, hl]))]
  congr 1
  simp only [selectCycle, hl, if_true]
  rw [turn_of_no_schedule (by simp [hs])]
  simp [dispatcherTurn, hset, hr, cycleTurn, finishCycle, observe, hcs, hc, storeUnspecified,
    busOutBytes, halfBytes, writeFailEvents, Config.busOpWrite, writeNow]

/-- The first `k` bytes that the read cycle under way in `s` delivers with status `st`: what it finds in
the device, or unspecified ones. -/
def deliveredData (s : State) (a : Half) (k : Nat) : CycleStatus → List Byte
  | .ok => deviceReadBlock s.params s.draws s.store a k
  | .fail => freeBytes k s.draws

@[simp] theorem freeBytes_length (n d : Nat) : (freeBytes n d).length = n := by simp [freeBytes]

theorem deliveredData_length (s : State) (a : Half) (k : Nat) (st : CycleStatus) :
    (deliveredData s a k st).length = k := by
  cases st <;> simp [deliveredData]

/-- The free values `k` bytes of a read cycle of status `st` use up. -/
def usedDraws (k : Nat) : CycleStatus → Nat
  | .ok => 0
  | .fail => k

/-- The data bytes coming in: `k` turns deliver the first `k` bytes (R184, R59). -/
theorem run_inBytes {stop : State → Bool} (a : Half) (n : Nat) (st : CycleStatus) (k m : Nat)
    (s : State) (hgo : KeepsGoing stop s.dispState) (hs : s.schedule = []) (hset : s.settling = false)
    (hr : s.busReady = true) (hc : s.cycle = some { op := .read a n, pos := 3, status := st })
    (hk : k ≤ n) (hn : n ≤ 256) :
    runUntil stop (k + m) s =
      runUntil stop m { s with
        cycle := some { op := .read a n, pos := 3 + k, status := st },
        dataBuf := bufOverwrite s.dataBuf (deliveredData s a k st),
        draws := s.draws + usedDraws k st,
        trace := s.trace ++ (deliveredData s a k st).map .busIn } := by
  induction k generalizing m with
  | zero => cases st <;> simp [deliveredData, deviceReadBlock, freeBytes, usedDraws, ← hc]
  | succ k ih =>
    rw [show k + 1 + m = k + (m + 1) by omega, ih (m + 1) (by omega), runUntil_turn]
    · congr 1
      rw [turn_of_no_schedule (by simp [hs])]
      have hlen := deliveredData_length s a k st
      have hw (v : Byte) := bufSet_overwrite s.dataBuf (deliveredData s a k st) v
        (by rw [hlen]; omega)
      rw [hlen] at hw
      cases st <;> simp only [deliveredData, freeBytes] at hw <;>
        simp [dispatcherTurn, hset, hr, cycleTurn, inputByte, observe, busOutBytes, halfBytes, usedDraws,
          show k < n by omega, hw, deliveredData, deviceReadBlock_succ, freeBytes, List.range_succ,
          Nat.add_assoc]
    · exact hgo _ (by simp) rfl

/-- One read cycle from its select on, whichever status the transport returns (R184, R190). -/
theorem run_readCycle {stop : State → Bool} (a : Half) (n m : Nat) (st : CycleStatus) (s : State)
    (hgo : KeepsGoing stop s.dispState) (hs : s.schedule = []) (hset : s.settling = false)
    (hr : s.busReady = true) (hl : s.busLock = .heldBy .dispatcher) (hcs : s.cs = .deasserted)
    (hc : s.cycle = none) (hn : n ≤ 256) (hst : nextStatus s = st) :
    runUntil stop (n + 4 + m) (selectCycle (.read a n) s) =
      runUntil stop m { popStatus s with
        dataBuf := bufOverwrite s.dataBuf (deliveredData (popStatus s) a n st),
        draws := s.draws + 1 + usedDraws n st,
        readDone := if st = .ok then true else s.readDone,
        busStatus := if st = .ok then s.busStatus else .fail,
        trace := s.trace ++ readEvents a (deliveredData (popStatus s) a n st) st } := by
  rw [show n + 4 + m = (busOutBytes (.read a n)).length + (n + (m + 1)) by
    simp [busOutBytes, halfBytes]; omega]
  rw [run_outBytes (.read a n) st (n + (m + 1)) (busOutBytes (.read a n)) 0 (selectCycle (.read a n) s)
    (by simpa [selectCycle, hl] using hgo) (by simp [selectCycle, hl, hs])
    (by simp [selectCycle, hl, hset]) (by simp [selectCycle, hl, hr])
    (by simp [selectCycle, hl, hst]) rfl]
  rw [run_inBytes a n st n (m + 1) _ (by simpa [selectCycle, hl] using hgo) (by simp [selectCycle, hl, hs])
    (by simp [selectCycle, hl, hset]) (by simp [selectCycle, hl, hr]) (by simp [busOutBytes, halfBytes])
    le_rfl hn]
  rw [runUntil_turn (hgo _ (by simp) (by simp [selectCycle, hl]))]
  congr 1
  simp only [selectCycle, hl, if_true]
  rw [turn_of_no_schedule (by simp [hs])]
  cases st <;>
    simp [dispatcherTurn, hset, hr, cycleTurn, finishCycle, observe, hcs, hc, busOutBytes, halfBytes,
      readEvents, Config.busOpRead, deliveredData]

/-! ## Primitives under one hold of the lock (43 R186, R187, R194) -/

/-- A dispatcher ready to acquire the lock for a primitive, with nothing else moving. -/
def AtBusAcquire (p : Primitive) (r : ReplyRule) (s : State) : Prop :=
  s.dispState = .busAcquire ∧ s.plan = .bus p r ∧ Quiet s

theorem run_acquire {p : Primitive} {r : ReplyRule} {s : State} (h : AtBusAcquire p r s) (m : Nat) :
    runUntil atIdle (m + 1) s = runUntil atIdle m (acquireBus s) := by
  obtain ⟨hd, -, hs, -, -, hl, -, hc, hset, -⟩ := h
  rw [runUntil_turn (by simp [atIdle, hd]), turn_of_no_schedule hs]
  simp [dispatcherTurn, hset, hc, hd, hl]

/-- The dispatcher in `BusRun` with byte `k` of a block write to come selects its cycle (R187). -/
theorem turn_writeBlock {a : Half} {data : List Byte} {r : ReplyRule} {k : Nat} (hk : k < data.length)
    {t : State} (h1 : t.schedule = []) (h2 : t.settling = false) (h3 : t.cycle = none)
    (h4 : t.dispState = .busRun) (h5 : t.plan = .bus (.writeBlock a data) r) (h6 : t.busStatus = .ok)
    (h7 : t.blkIndex = k) : turn t = selectCycle (.write (blockAddr a k) (byteAt data k)) t := by
  rw [turn_of_no_schedule h1]
  simp [dispatcherTurn, h2, h3, h4, nextOp_bus h5 h6, nextCycle, h7, hk]

/-- `k` good write cycles of a block, from the acquired lock on (R187). -/
theorem run_writeBlock {a : Half} {data : List Byte} {r : ReplyRule} {s : State}
    (h : AtBusAcquire (.writeBlock a data) r s) (k m : Nat) (hk : k ≤ data.length)
    (hok : CyclesOk k s) :
    runUntil atIdle (7 * k + m) (acquireBus s) =
      runUntil atIdle m { acquireBus s with
        answers := s.answers.drop k, draws := s.draws + k, blkIndex := k,
        store := writeBlockNow s a (data.take k),
        trace := s.trace ++ .acqBus :: blockEvents a (data.take k) } := by
  obtain ⟨hd, hp, hs, hr, -, hl, -, hc, hset, hcs⟩ := h
  induction k generalizing m with
  | zero => simp [acquireBus, observe, blockEvents, writeBlockNow]
  | succ k ih =>
    rw [show 7 * (k + 1) + m = 7 * k + (6 + m + 1) by omega,
      ih (6 + m + 1) (by omega) (fun j hj => hok j (by omega))]
    have hst : nextStatus (popStatuses k s) = .ok := hok k (by omega)
    rw [popStatuses_eq] at hst
    rw [runUntil_turn (by simp [atIdle, acquireBus]),
      turn_writeBlock (a := a) (data := data) (r := r) (show k < data.length by omega) (by simp [acquireBus, hs])
        (by simp [acquireBus, hset]) (by simp [acquireBus, hc]) (by simp [acquireBus])
        (by simp [acquireBus, hp]) (by simp [acquireBus]) rfl,
      run_writeCycle_ok _ _ m _ (by simpa [acquireBus] using keepsGoing_atIdle)
        (by simp [acquireBus, hs]) (by simp [acquireBus, hset]) (by simp [acquireBus, hr])
        (by simp [acquireBus]) (by simp [acquireBus, hcs]) (by simp [acquireBus, hc])
        (by rw [← hst]; exact nextStatus_congr rfl rfl)]
    congr 1
    have hd2 : data.take (k + 1) = data.take k ++ [byteAt data k] := by
      rw [List.take_succ_eq_append_getElem (by omega)]; simp [byteAt, show k < data.length by omega]
    have hb : blockEvents a (data.take (k + 1)) =
        blockEvents a (data.take k) ++ writeEvents (blockAddr a k) (byteAt data k) := by
      simp [blockEvents, hd2, List.zipIdx_append, Nat.min_eq_left (show k ≤ data.length by omega)]
    have hw : writeBlockNow s a (data.take (k + 1)) =
        deviceWrite s.params (s.draws + k + 1) (writeBlockNow s a (data.take k)) (blockAddr a k)
          (byteAt data k) := by
      rw [show s.draws + k + 1 = s.draws + 1 + k by omega]
      exact deviceWriteBlock_take_succ _ _ _ _ _ _ (by omega)
    rw [hb, hw]
    simp [popStatus, writeNow, acquireBus, Nat.add_assoc]

/-! ## From the end of a primitive to the end of the cycle (42 R149, R163) -/

/-- The dispatcher in `BusRun` with the primitive ended, and nothing else moving. -/
def AtPrimitiveEnd (s : State) : Prop :=
  s.dispState = .busRun ∧ nextOp s = none ∧ s.busLock = .heldBy .dispatcher ∧ s.schedule = [] ∧
  s.settling = false ∧ s.cycle = none ∧ s.txReady = true ∧ s.txLock = .free

theorem turn_respond {s : State} (hs : s.schedule = []) (hset : s.settling = false)
    (hc : s.cycle = none) (hd : s.dispState = .respond) :
    turn s = respondWith (chooseResponse s).1 (chooseResponse s).2 s := by
  rw [turn_of_no_schedule hs]; simp [dispatcherTurn, hset, hc, hd]

theorem run_primitiveEnd {s : State} (h : AtPrimitiveEnd s) {code : Byte} {payload : List Byte}
    (hch : chooseResponse s = (code, payload)) (hp : payload.length ≤ 252) (m : Nat) :
    runUntil atIdle (payload.length + 9 + m) s =
      responded code payload { s with busLock := .free, trace := s.trace ++ [.relBus] } := by
  obtain ⟨hd, hn, hl, hs, hset, hc, hr, htl⟩ := h
  have h1 : turn s = endPrimitive s := by
    rw [turn_of_no_schedule hs]; simp [dispatcherTurn, hset, hc, hd, hn]
  have h2 : turn (endPrimitive s) = respondWith code payload (endPrimitive s) := by
    have hch' : chooseResponse (endPrimitive s) = (code, payload) := by
      rw [← hch]; simp [chooseResponse, endPrimitive]
    rw [turn_respond (by simp [endPrimitive, hs]) (by simp [endPrimitive, hset])
      (by simp [endPrimitive, hc]) rfl, hch']
  rw [show payload.length + 9 + m = payload.length + 7 + m + 1 + 1 by omega,
    runUntil_turn (by simp [atIdle, hd]), h1, runUntil_turn (by simp [atIdle, endPrimitive]), h2,
    run_respondWith _ _ _ _ (by simp [endPrimitive, hs]) (by simp [endPrimitive, hset])
      (by simp [endPrimitive, hc]) (by simp [endPrimitive, hr]) (by simp [endPrimitive, htl]) hp]
  simp [responded, endPrimitive, releaseBus, hl, observe]

/-- A block write whose cycles all end Ok (R187): Ack. -/
theorem runCycle_write_ok {a : Half} {data : List Byte} {s : State}
    (h : AtBusAcquire (.writeBlock a data) .ack s) (hlen : data.length ≤ 248)
    (hok : CyclesOk data.length s) :
    runCycle s = responded Config.codeAck [] (writeDoneOk a data s) := by
  have hq := h
  obtain ⟨hd, hp, hs, hr, htr, hl, htl, hc, hset, hcs⟩ := hq
  unfold runCycle cycleFuel
  rw [show 4096 + s.schedule.length = 7 * data.length + (([] : List Byte).length + 9 + (4086 - 7 * data.length)) + 1 by
    simp [hs]; omega]
  rw [run_acquire h, run_writeBlock h data.length _ le_rfl hok]
  rw [run_primitiveEnd (code := Config.codeAck) (payload := [])
    ⟨by simp [acquireBus], by simp [acquireBus, nextOp, hp, nextCycle], by simp [acquireBus],
      by simp [acquireBus, hs], by simp [acquireBus, hset], by simp [acquireBus, hc],
      by simp [acquireBus, htr], by simp [acquireBus, htl]⟩
    (by simp [chooseResponse, acquireBus, hp, ruleResponse]) (by simp)]
  simp [responded, writeDoneOk, popStatuses_eq, acquireBus, observe, hl]

/-- A block write that fails at byte `k` (R191): the bytes before it are written, Nack(BusFailure). -/
theorem runCycle_write_fail {a : Half} {data : List Byte} {s : State} {r : ReplyRule}
    (h : AtBusAcquire (.writeBlock a data) r s) (hlen : data.length ≤ 248) {k : Nat}
    (hk : k < data.length) (hf : FailsAt k s) :
    runCycle s = responded Config.codeNack [Config.errBusFailure] (writeDoneFail a data k s) := by
  have hq := h
  obtain ⟨hd, hp, hs, hr, htr, hl, htl, hc, hset, hcs⟩ := hq
  have hnext := hf.2
  rw [popStatuses_eq] at hnext
  unfold runCycle cycleFuel
  rw [show 4096 + s.schedule.length = 7 * k + (5 + ([Config.errBusFailure].length + 9 + (4079 - 7 * k)) + 1) + 1 by
    simp [hs]; omega]
  rw [run_acquire h, run_writeBlock h k _ (by omega) hf.1]
  rw [runUntil_turn (by simp [atIdle, acquireBus]),
    turn_writeBlock (a := a) (data := data) (r := r) hk (by simp [acquireBus, hs]) (by simp [acquireBus, hset])
      (by simp [acquireBus, hc]) (by simp [acquireBus]) (by simp [acquireBus, hp])
      (by simp [acquireBus]) rfl,
    run_writeCycle_fail _ _ _ _ (by simpa [acquireBus] using keepsGoing_atIdle)
      (by simp [acquireBus, hs]) (by simp [acquireBus, hset]) (by simp [acquireBus, hr])
      (by simp [acquireBus]) (by simp [acquireBus, hcs]) (by simp [acquireBus, hc])
      (by rw [← hnext]; exact nextStatus_congr rfl rfl)]
  rw [run_primitiveEnd (code := Config.codeNack) (payload := [Config.errBusFailure])
    ⟨by simp [acquireBus], by simp [acquireBus, nextOp, hp], by simp [acquireBus],
      by simp [acquireBus, hs], by simp [acquireBus, hset], by simp [acquireBus, hc],
      by simp [acquireBus, htr], by simp [acquireBus, htl]⟩
    (by simp [chooseResponse, acquireBus, hp]) (by simp)]
  simp [responded, writeDoneFail, writeNow, popStatuses_eq, popStatus, acquireBus, observe, hl,
    show s.draws + k + 1 = s.draws + 1 + k by omega, show s.draws + k + 2 = s.draws + 2 + k by omega]

/-- A read of no bytes (R192): the lock is taken and released, no cycle is issued. -/
theorem runCycle_read_zero {a : Half} {rule : ReplyRule} {s : State}
    (h : AtBusAcquire (.readBlock a 0) rule s) {code : Byte} {payload : List Byte}
    (hch : ruleResponse rule s.dataBuf = (code, payload)) (hp252 : payload.length ≤ 252) :
    runCycle s = responded code payload (readDoneOk a 0 s) := by
  have hq := h
  obtain ⟨hd, hp, hs, hr, htr, hl, htl, hc, hset, hcs⟩ := hq
  unfold runCycle cycleFuel
  rw [show 4096 + s.schedule.length = payload.length + 9 + (4086 - payload.length) + 1 by
    simp [hs]; omega]
  rw [run_acquire h, run_primitiveEnd (code := code) (payload := payload)
    ⟨by simp [acquireBus], by simp [acquireBus, nextOp, hp, nextCycle], by simp [acquireBus],
      by simp [acquireBus, hs], by simp [acquireBus, hset], by simp [acquireBus, hc],
      by simp [acquireBus, htr], by simp [acquireBus, htl]⟩
    (by simp [chooseResponse, acquireBus, hp, hch]) hp252]
  simp [responded, readDoneOk, acquireBus, observe, hl]

/-- The state a read cycle of status `st` leaves under the acquired lock. -/
theorem run_readBlock {a : Half} {n : Nat} {rule : ReplyRule} {s : State}
    (h : AtBusAcquire (.readBlock a n) rule s) (hn : n ≤ 256) (h0 : n ≠ 0) {st : CycleStatus}
    (hst : nextStatus s = st) (m : Nat) :
    runUntil atIdle (n + 5 + m) (acquireBus s) =
      runUntil atIdle m { popStatus s with
        busLock := .heldBy .dispatcher, blkIndex := 0, dispState := .busRun,
        dataBuf := bufOverwrite s.dataBuf (deliveredData (popStatus s) a n st),
        draws := s.draws + 1 + usedDraws n st,
        readDone := if st = .ok then true else false,
        busStatus := if st = .ok then .ok else .fail,
        trace := s.trace ++ .acqBus ::
          readEvents a (deliveredData (popStatus s) a n st) st } := by
  obtain ⟨hd, hp, hs, hr, htr, hl, htl, hc, hset, hcs⟩ := h
  rw [show n + 5 + m = n + 4 + m + 1 by omega, runUntil_turn (by simp [atIdle, acquireBus]),
    turn_of_no_schedule (by simp [acquireBus, hs])]
  rw [show dispatcherTurn (acquireBus s) = selectCycle (.read a n) (acquireBus s) by
    simp [dispatcherTurn, acquireBus, hset, hc, nextOp, hp, nextCycle, h0]]
  rw [run_readCycle a n m st _ (by simpa [acquireBus] using keepsGoing_atIdle)
        (by simp [acquireBus, hs]) (by simp [acquireBus, hset]) (by simp [acquireBus, hr])
        (by simp [acquireBus]) (by simp [acquireBus, hcs]) (by simp [acquireBus, hc]) hn
        (by rw [← hst]; exact nextStatus_congr rfl rfl)]
  congr 1
  cases st <;> simp [acquireBus, observe, popStatus, deliveredData]

/-- A read whose cycle ends Ok (R184, R186): the response of the command's rule. -/
theorem runCycle_read_ok {a : Half} {n : Nat} {rule : ReplyRule} {s : State}
    (h : AtBusAcquire (.readBlock a n) rule s) (hn : n ≤ 248) (h0 : n ≠ 0)
    (hok : nextStatus s = .ok) {code : Byte} {payload : List Byte}
    (hch : ruleResponse rule (bufOverwrite s.dataBuf (readBlockNow s a n)) = (code, payload))
    (hp252 : payload.length ≤ 252) :
    runCycle s = responded code payload (readDoneOk a n s) := by
  have hq := h
  obtain ⟨hd, hp, hs, hr, htr, hl, htl, hc, hset, hcs⟩ := hq
  unfold runCycle cycleFuel
  rw [show 4096 + s.schedule.length =
      n + 5 + (payload.length + 9 + (4081 - n - payload.length)) + 1 by simp [hs]; omega]
  rw [run_acquire h, run_readBlock h (by omega) h0 hok,
    run_primitiveEnd (code := code) (payload := payload)
    ⟨rfl, by simp [nextOp, hp, nextCycle], rfl, by simp [hs], by simp [hset], by simp [hc],
      by simp [htr], by simp [htl]⟩
    (by simpa [chooseResponse, hp, deliveredData, readBlockNow] using hch) hp252]
  simp [responded, readDoneOk, h0, deliveredData, readBlockNow, usedDraws, popStatus, hl]

/-- A read whose cycle fails (R190, R147): Nack(BusFailure), the data never used. -/
theorem runCycle_read_fail {a : Half} {n : Nat} {rule : ReplyRule} {s : State}
    (h : AtBusAcquire (.readBlock a n) rule s) (hn : n ≤ 248) (h0 : n ≠ 0)
    (hf : nextStatus s = .fail) :
    runCycle s = responded Config.codeNack [Config.errBusFailure] (readDoneFail a n s) := by
  have hq := h
  obtain ⟨hd, hp, hs, hr, htr, hl, htl, hc, hset, hcs⟩ := hq
  unfold runCycle cycleFuel
  rw [show 4096 + s.schedule.length = n + 5 + ([Config.errBusFailure].length + 9 + (4080 - n)) + 1 by simp [hs]; omega]
  rw [run_acquire h, run_readBlock h (by omega) h0 hf,
    run_primitiveEnd (code := Config.codeNack) (payload := [Config.errBusFailure])
    ⟨rfl, by simp [nextOp, hp], rfl, by simp [hs], by simp [hset], by simp [hc],
      by simp [htr], by simp [htl]⟩
    (by simp [chooseResponse, hp]) (by simp)]
  simp [responded, readDoneFail, deliveredData, usedDraws, popStatus, hl]

/-! ## Immediate responses and Nacks (42 R163, 60 R222) -/

theorem runCycle_respondWith (code : Byte) (payload : List Byte) (s : State) (hq : CanSend s)
    (hp : payload.length ≤ 252) :
    runCycle (respondWith code payload s) = responded code payload s := by
  obtain ⟨hs, htr, htl, hc, hset⟩ := hq
  unfold runCycle cycleFuel
  rw [show 4096 + (respondWith code payload s).schedule.length =
    payload.length + 7 + (4089 - payload.length) by simp [respondWith, hs]; omega]
  exact run_respondWith code payload _ s hs hset hc htr htl hp

theorem runCycle_raiseNack (e : Byte) (s : State) (hq : CanSend s) :
    runCycle (raiseNack e s) = nacked e s := by
  obtain ⟨hs, htr, htl, hc, hset⟩ := hq
  unfold runCycle cycleFuel
  rw [show 4096 + (raiseNack e s).schedule.length = ([e].length + 7 + 4087) + 1 by simp [hs],
    runUntil_turn (by simp) ([e].length + 7 + 4087), turn_of_no_schedule (by simp [hs])]
  rw [show dispatcherTurn (raiseNack e s) = respondWith Config.codeNack [e] (raiseNack e s) by
    simp [dispatcherTurn, hset, hc, chooseResponse]]
  rw [run_respondWith _ _ _ _ (by simp [hs]) (by simp [hset]) (by simp [hc]) (by simp [htr])
      (by simp [htl]) (by simp)]
  simp [nacked, responded, raiseNack]

/-! ## One bus cycle from its select to its end (43 R182) -/

theorem runBusCycle_read {a : Half} {n : Nat} {s : State} (hb : HoldsBus s) (hn : n ≤ 256) :
    runBusCycle (selectCycle (.read a n) s) =
      match nextStatus s with
      | .ok => readCycleOk a n s
      | .fail => readCycleFail a n s := by
  obtain ⟨hs, hr, hl, hc, hset, hcs⟩ := hb
  unfold runBusCycle cycleFuel
  rw [show 4096 + (selectCycle (.read a n) s).schedule.length = n + 4 + (4092 - n) by
    simp [selectCycle, hl, hs]; omega]
  have h := run_readCycle (stop := busDone) a n (4092 - n) (nextStatus s) s
    (keepsGoing_busDone _) hs hset hr hl hcs hc hn rfl
  refine h.trans ?_
  rw [runUntil_of_stop (by simp [busDone, hc, hset])]
  cases hst : nextStatus s <;>
    simp [readCycleOk, readCycleFail, readBlockNow, deliveredData, usedDraws, popStatus]

theorem runBusCycle_write {a : Half} {d : Byte} {s : State} (hb : HoldsBus s) :
    runBusCycle (selectCycle (.write a d) s) =
      match nextStatus s with
      | .ok => writeCycleOk a d s
      | .fail => writeCycleFail a d s := by
  obtain ⟨hs, hr, hl, hc, hset, hcs⟩ := hb
  unfold runBusCycle cycleFuel
  cases hst : nextStatus s
  · rw [show 4096 + (selectCycle (.write a d) s).schedule.length = 6 + 4090 by
      simp [selectCycle, hl, hs]]
    refine (run_writeCycle_ok (stop := busDone) a d 4090 s (keepsGoing_busDone _) hs hset hr hl hcs hc
      hst).trans ?_
    rw [runUntil_of_stop (by simp [busDone, hc, hset])]
    simp [writeCycleOk]
  · rw [show 4096 + (selectCycle (.write a d) s).schedule.length = 5 + 4091 by
      simp [selectCycle, hl, hs]]
    refine (run_writeCycle_fail (stop := busDone) a d 4091 s (keepsGoing_busDone _) hs hset hr hl hcs hc
      hst).trans ?_
    rw [runUntil_of_stop (by simp [busDone, hc, hset])]
    simp [writeCycleFail]

theorem nextStatus_popStatuses_congr {s t : State} (ha : s.answers = t.answers)
    (hd : s.draws = t.draws) (k : Nat) :
    nextStatus (popStatuses k s) = nextStatus (popStatuses k t) := by
  rw [popStatuses_eq, popStatuses_eq]; exact nextStatus_congr (by simp [ha]) (by simp [hd])

theorem cyclesOk_congr {s t : State} (ha : s.answers = t.answers) (hd : s.draws = t.draws) (k : Nat) :
    CyclesOk k s ↔ CyclesOk k t := by
  simp only [CyclesOk, nextStatus_popStatuses_congr ha hd]

theorem failsAt_congr {s t : State} (ha : s.answers = t.answers) (hd : s.draws = t.draws) (k : Nat) :
    FailsAt k s ↔ FailsAt k t := by
  simp only [FailsAt, cyclesOk_congr ha hd, nextStatus_popStatuses_congr ha hd]

theorem cyclesOk_of {s t : State} {k : Nat} (h : CyclesOk k s) (ha : s.answers = t.answers)
    (hd : s.draws = t.draws) : CyclesOk k t := (cyclesOk_congr ha hd k).1 h

theorem failsAt_of {s t : State} {k : Nat} (h : FailsAt k s) (ha : s.answers = t.answers)
    (hd : s.draws = t.draws) : FailsAt k t := (failsAt_congr ha hd k).1 h

theorem nextStatus_of {s t : State} {st : CycleStatus} (h : nextStatus s = st)
    (ha : s.answers = t.answers) (hd : s.draws = t.draws) : nextStatus t = st :=
  (nextStatus_congr ha hd).symm.trans h

/-- The next `n` cycles all end Ok, or one of them is the first to fail. -/
theorem cyclesOk_or_failsAt (n : Nat) (s : State) : CyclesOk n s ∨ ∃ k < n, FailsAt k s := by
  induction n with
  | zero => exact .inl fun j hj => absurd hj (by omega)
  | succ n ih =>
    rcases ih with h | ⟨k, hk, h⟩
    · cases hst : nextStatus (popStatuses n s) with
      | ok =>
        refine .inl fun j hj => ?_
        rcases Nat.lt_succ_iff_lt_or_eq.1 hj with h2 | rfl
        · exact h j h2
        · exact hst
      | fail => exact .inr ⟨n, by omega, h, hst⟩
    · exact .inr ⟨k, by omega, h⟩

end Sys2Proof.Laws
end

