-- ==== Sys2Proof/Laws/Plans.lean ====
section
/-! SUPPORT. What a bus plan does from a quiet state (42 R163, 43 R186 to R192): one lemma per way a
primitive ends, over the state the plan is made in. Use them with the `Quiet` argument postponed,
`rw [runCycle_planBus_write_ok (by exact hq) …]`, so that the state is read from the goal. -/

namespace Sys2Proof.Laws
open Sys2Proof.Machine Sys2Proof.Safety

theorem clamp_toNat (n : Half) : (clamp n).toNat = min n.toNat 246 := by
  unfold clamp
  have := n.isLt
  split <;> simp [Config.readClamp] at * <;> omega

theorem clamp_eq (n : Half) : clamp n = BitVec.ofNat 16 (min n.toNat 246) := by
  apply BitVec.eq_of_toNat_eq; rw [clamp_toNat]; simp; omega

theorem profileAddress_eq (id : Byte) :
    profileAddress id = BitVec.ofNat 16 (0x100 + 64 * id.toNat) := by
  simp [profileAddress, Config.profileBase, Config.profileSize, BitVec.ofNat_add]

/-- The block just read is read back from the buffer. -/
theorem bufPrefix_readBlock (b : Buf) (s : State) (a : Half) (n : Nat) (h : n ≤ 256) :
    bufPrefix (bufOverwrite b (readBlockNow s a n)) n = readBlockNow s a n := by
  have := bufPrefix_overwrite b (readBlockNow s a n) (by simp [readBlockNow, h])
  rwa [readBlockNow, deviceReadBlock_length] at this

theorem runCycle_planBus_read_zero {a : Half} {rule : ReplyRule} {s : State} (hq : Quiet s)
    {code : Byte} {payload : List Byte} (hch : ruleResponse rule s.dataBuf = (code, payload))
    (hp : payload.length ≤ 252) :
    runCycle (planBus (.readBlock a 0) rule s) =
      responded code payload (readDoneOk a 0 { s with plan := .bus (.readBlock a 0) rule }) := by
  rw [runCycle_read_zero (s := planBus (.readBlock a 0) rule s) ⟨rfl, rfl, hq⟩ hch hp]; rfl

theorem runCycle_planBus_read_ok {a : Half} {n : Nat} {rule : ReplyRule} {s : State} (hq : Quiet s)
    (hn : n ≤ 248) (h0 : n ≠ 0) (hok : nextStatus s = .ok) {code : Byte} {payload : List Byte}
    (hch : ruleResponse rule (bufOverwrite s.dataBuf (readBlockNow s a n)) = (code, payload))
    (hp : payload.length ≤ 252) :
    runCycle (planBus (.readBlock a n) rule s) =
      responded code payload (readDoneOk a n { s with plan := .bus (.readBlock a n) rule }) := by
  rw [runCycle_read_ok (s := planBus (.readBlock a n) rule s) ⟨rfl, rfl, hq⟩ hn h0
    (nextStatus_of hok rfl rfl) hch hp]
  simp only [readDoneOk, h0, if_false]
  rfl

theorem runCycle_planBus_read_fail {a : Half} {n : Nat} {rule : ReplyRule} {s : State} (hq : Quiet s)
    (hn : n ≤ 248) (h0 : n ≠ 0) (hf : nextStatus s = .fail) :
    runCycle (planBus (.readBlock a n) rule s) =
      responded Config.codeNack [Config.errBusFailure]
        (readDoneFail a n { s with plan := .bus (.readBlock a n) rule }) := by
  rw [runCycle_read_fail (s := planBus (.readBlock a n) rule s) ⟨rfl, rfl, hq⟩ hn h0
    (nextStatus_of hf rfl rfl)]
  simp only [readDoneFail]
  rfl

theorem runCycle_planBus_write_ok {a : Half} {data : List Byte} {s : State} (hq : Quiet s)
    (hlen : data.length ≤ 248) (hok : CyclesOk data.length s) :
    runCycle (planBus (.writeBlock a data) .ack s) =
      responded Config.codeAck [] (writeDoneOk a data { s with plan := .bus (.writeBlock a data) .ack }) := by
  rw [runCycle_write_ok (s := planBus (.writeBlock a data) .ack s) ⟨rfl, rfl, hq⟩ hlen
    (cyclesOk_of hok rfl rfl)]
  simp only [writeDoneOk, popStatuses_eq]
  rfl

theorem runCycle_planBus_write_fail {a : Half} {data : List Byte} {r : ReplyRule} {s : State}
    (hq : Quiet s) (hlen : data.length ≤ 248) {k : Nat} (hk : k < data.length) (hf : FailsAt k s) :
    runCycle (planBus (.writeBlock a data) r s) =
      responded Config.codeNack [Config.errBusFailure]
        (writeDoneFail a data k { s with plan := .bus (.writeBlock a data) r }) := by
  rw [runCycle_write_fail (s := planBus (.writeBlock a data) r s) ⟨rfl, rfl, hq⟩ hlen hk
    (failsAt_of hf rfl rfl)]
  simp only [writeDoneFail, popStatuses_eq]
  rfl

end Sys2Proof.Laws
end

