-- ==== Sys2Proof/Laws/Turns.lean ====
section
/-! SUPPORT. What one turn, and one step, can do, said once (42 R163, 10 R20): each case with the guard it
was taken under. Later proofs take these apart with `rcases` or `cases` and unfold no dispatch. -/

namespace Sys2Proof.Laws
open Sys2Proof.Machine Sys2Proof.Safety

/-- The dispatcher's turns from `s`. -/
inductive DispatcherTurn (s : State) : State → Prop where
  | endSettle (hset : s.settling = true) : DispatcherTurn s (Machine.endSettle s)
  | busOut (c : BusCycle) (hset : s.settling = false) (hc : s.cycle = some c)
      (hp : c.pos < (busOutBytes c.op).length) :
      DispatcherTurn s (observe [.busOut (byteAt (busOutBytes c.op) c.pos)]
        { s with cycle := some { c with pos := c.pos + 1 } })
  | busIn (c : BusCycle) (a : Half) (n k : Nat) (hset : s.settling = false) (hc : s.cycle = some c)
      (hop : c.op = .read a n) (hk : k < n) : DispatcherTurn s (inputByte c a k s)
  | deselect (c : BusCycle) (hset : s.settling = false) (hc : s.cycle = some c) :
      DispatcherTurn s (finishCycle c s)
  | toValidate (hset : s.settling = false) (hc : s.cycle = none) (hd : s.dispState = .idle)
      (hr : s.frameReady = true) : DispatcherTurn s { s with dispState := .validate }
  | toDecode (hset : s.settling = false) (hc : s.cycle = none) (hd : s.dispState = .validate)
      (hv : validate (slotFrame s) = true) : DispatcherTurn s { s with dispState := .decode }
  | drop (hset : s.settling = false) (hc : s.cycle = none) (hd : s.dispState = .validate)
      (hv : validate (slotFrame s) = false) : DispatcherTurn s (dropFrame s)
  | acquireBus (hset : s.settling = false) (hc : s.cycle = none) (hd : s.dispState = .busAcquire)
      (hl : s.busLock = .free) : DispatcherTurn s (Machine.acquireBus s)
  | select (op : BusOp) (hset : s.settling = false) (hc : s.cycle = none) (hd : s.dispState = .busRun)
      (ho : nextOp s = some op) : DispatcherTurn s (selectCycle op s)
  | endPrimitive (hset : s.settling = false) (hc : s.cycle = none) (hd : s.dispState = .busRun)
      (ho : nextOp s = none) : DispatcherTurn s (Machine.endPrimitive s)
  | respond (hset : s.settling = false) (hc : s.cycle = none) (hd : s.dispState = .respond) :
      DispatcherTurn s (respondWith (chooseResponse s).1 (chooseResponse s).2 s)
  | acquireTx (hset : s.settling = false) (hc : s.cycle = none) (hd : s.dispState = .txAcquire)
      (hl : s.txLock = .free) : DispatcherTurn s (Machine.acquireTx s)
  | emit (hset : s.settling = false) (hc : s.cycle = none) (hd : s.dispState = .txRun)
      (hi : s.txIndex < s.respLen) : DispatcherTurn s (emitByte s)
  | releaseTx (hset : s.settling = false) (hc : s.cycle = none) (hd : s.dispState = .txRun)
      (hi : s.respLen ≤ s.txIndex) : DispatcherTurn s (Machine.releaseTx s)
  | finish (hset : s.settling = false) (hc : s.cycle = none) (hd : s.dispState = .finish) :
      DispatcherTurn s (endCycle s)
  | stay : DispatcherTurn s s

theorem dispatcherTurn_cases (s : State) : DispatcherTurn s (dispatcherTurn s) := by
  unfold dispatcherTurn
  split
  · exact .endSettle ‹_›
  · have hset : s.settling = false := by simpa using ‹¬s.settling = true›
    split
    · rename_i c hc
      split
      · unfold cycleTurn
        dsimp only
        split
        · exact .busOut c hset hc ‹_›
        · split
          · rename_i a n hop
            split
            · exact .busIn c a n _ hset hc hop ‹_›
            · exact .deselect c hset hc
          · exact .deselect c hset hc
      · exact .stay
    · rename_i hc
      split
      · rename_i hd
        split
        · exact .toValidate hset hc hd ‹_›
        · exact .stay
      · rename_i hd
        split
        · exact .toDecode hset hc hd ‹_›
        · exact .drop hset hc hd (by simpa using ‹¬validate (slotFrame s) = true›)
      · exact .stay
      · rename_i hd
        split
        · exact .acquireBus hset hc hd ‹_›
        · exact .stay
      · rename_i hd
        split
        · rename_i op ho; exact .select op hset hc hd ho
        · rename_i ho; exact .endPrimitive hset hc hd ho
      · rename_i hd; exact .respond hset hc hd
      · rename_i hd
        split
        · exact .acquireTx hset hc hd ‹_›
        · exact .stay
      · rename_i hd
        split
        · split
          · exact .emit hset hc hd ‹_›
          · exact .stay
        · exact .releaseTx hset hc hd (by omega)
      · rename_i hd; exact .finish hset hc hd

/-! ## The end of a bus cycle -/

/-- The store after a bus cycle of `op` has ended: as it was, or with one write by that cycle. -/
def StoreAfter (op : BusOp) (s : State) (m : Store) : Prop :=
  m = s.store ∨ ∃ a d v, op = .write a d ∧ m = deviceWrite s.params s.draws s.store a v

/-- Everything the end of a bus cycle does (R182, R190). -/
theorem finishCycle_cases (c : BusCycle) (s : State) :
    ∃ bs rd st m n, StoreAfter c.op s m ∧ (bs = s.busStatus ∨ bs = .fail) ∧
      finishCycle c s = { s with
        cs := .deasserted, cycle := none, trace := s.trace ++ [.csDeassert, .cycleStatus c.status],
        busStatus := bs, readDone := rd, settling := st, store := m, draws := n } := by
  obtain ⟨op, p, status⟩ := c
  cases op <;> cases status
  · exact ⟨_, _, _, _, _, .inl rfl, .inl rfl, rfl⟩
  · exact ⟨_, _, _, _, _, .inl rfl, .inr rfl, rfl⟩
  · exact ⟨_, _, _, _, _, .inr ⟨_, _, _, rfl, rfl⟩, .inl rfl, rfl⟩
  · exact ⟨_, _, _, _, _, .inr ⟨_, _, _, rfl, rfl⟩, .inr rfl, rfl⟩

/-- Everything an expiry does to a bus cycle (R193, R190). -/
theorem expireCycle_cases (c : BusCycle) (s : State) :
    ∃ b m n, StoreAfter c.op s m ∧
      expireCycle c s = { s with
        cs := .deasserted, cycle := none, trace := s.trace ++ [.csDeassert, .cycleStatus .fail],
        busStatus := .fail, dataBuf := b, store := m, draws := n } := by
  obtain ⟨op, p, status⟩ := c
  cases op
  · exact ⟨_, _, _, .inl rfl, rfl⟩
  · exact ⟨_, _, _, .inr ⟨_, _, _, rfl, rfl⟩, rfl⟩

/-- A turn: the dispatcher's or an event's, the schedule's head taken off. -/
theorem turn_cases (s : State) :
    (s.schedule = [] ∧ turn s = dispatcherTurn s) ∨
    (s.schedule.head? = some .dispatcher ∧
      turn s = dispatcherTurn { s with schedule := s.schedule.tail }) ∨
    (∃ e, s.schedule.head? = some (.env e) ∧
      turn s = envAct e { s with schedule := s.schedule.tail }) := by
  unfold turn
  split
  · exact .inl ⟨‹_›, rfl⟩
  · rename_i r h; exact .inr (.inl ⟨by simp [h], by simp [h]⟩)
  · rename_i e r h; exact .inr (.inr ⟨e, by simp [h], by simp [h]⟩)

/-- The dispatcher has the next turn. -/
def DispatcherNext (s : State) : Prop := s.schedule = [] ∨ s.schedule.head? = some .dispatcher

/-- A step from `s` to `t`: a turn, or the instruction at the dispatcher's control point. -/
inductive StepTo (s : State) : State → Prop where
  | advance : StepTo s (turn s)
  | request (i : Instr) (t : State) (hn : DispatcherNext s) (hset : s.settling = false)
      (hc : s.cycle = none) (hd : s.dispState = .decode) (hi : slotDecoded s = .instr i)
      (h : exec i (prepare s) = .next t) : StepTo s t
  | wrongLength (r : Reject) (t : State) (hn : DispatcherNext s) (hset : s.settling = false)
      (hc : s.cycle = none) (hd : s.dispState = .decode) (hi : slotDecoded s = .reject r)
      (h : exec .invalidCommand (prepare s) = .next t) : StepTo s t
  | response (i : Instr) (t : State) (hn : DispatcherNext s) (hset : s.settling = false)
      (hc : s.cycle = none) (hd : s.dispState = .respond)
      (hi : decodeResponse (chooseResponse s).1 (chooseResponse s).2 = .instr i)
      (h : exec i (prepare s) = .next t) : StepTo s t
  | bus (op : BusOp) (t : State) (hn : DispatcherNext s) (hset : s.settling = false)
      (hc : s.cycle = none) (hd : s.dispState = .busRun) (ho : nextOp s = some op)
      (h : exec (busInstr op) (prepare s) = .next t) : StepTo s t
  | busFailure (t : State) (hn : DispatcherNext s) (hset : s.settling = false)
      (hc : s.cycle = none) (hd : s.dispState = .busRun) (hb : s.busStatus = .fail)
      (h : exec .busFailure (prepare s) = .next t) : StepTo s t
  | checksum (t : State) (hn : DispatcherNext s) (hset : s.settling = false)
      (hc : s.cycle = none) (hd : s.dispState = .validate)
      (h : exec .checksum (prepare s) = .next t) : StepTo s t
  | timeout (t : State) (hw : waitExpiryEnabled s = true)
      (hh : s.schedule.head? = some (.env .waitExpires))
      (h : exec .timeout (prepare s) = .next t) : StepTo s t

theorem step_cases {s t : State} (h : step s = .next t) : StepTo s t := by
  have disp (hn : DispatcherNext s) (hf : fetch s = fetchDispatcher s) : StepTo s t := by
    unfold step at h
    rw [hf] at h
    unfold fetchDispatcher at h
    by_cases hb : (s.settling || s.cycle.isSome) = true
    · rw [if_pos hb] at h; cases h; exact .advance
    · rw [if_neg hb] at h
      simp only [Bool.or_eq_true, not_or, Bool.not_eq_true, Option.isSome_eq_false_iff,
        Option.isNone_iff_eq_none] at hb
      obtain ⟨hset, hc⟩ := hb
      cases hd : s.dispState <;> simp only [hd] at h
      · cases h; exact .advance
      · split at h
        · rename_i heq; split at heq <;> cases heq; exact .checksum t hn hset hc hd h
        · cases h; exact .advance
        · rename_i heq; split at heq <;> cases heq
      · cases hi : slotDecoded s with
        | instr i => rw [hi] at h; exact .request i t hn hset hc hd hi h
        | reject r => rw [hi] at h; exact .wrongLength r t hn hset hc hd hi h
      · cases h; exact .advance
      · cases ho : nextOp s with
        | some op => rw [ho] at h; exact .bus op t hn hset hc hd ho h
        | none =>
          rw [ho] at h
          dsimp only at h
          by_cases hb : s.busStatus = .fail
          · rw [if_pos hb] at h; exact .busFailure t hn hset hc hd hb h
          · rw [if_neg hb] at h; cases h; exact .advance
      · cases hi : decodeResponse (chooseResponse s).1 (chooseResponse s).2 with
        | instr i => rw [hi] at h; exact .response i t hn hset hc hd hi h
        | reject r => rw [hi] at h; cases h
      all_goals cases h; exact .advance
  cases hs : s.schedule with
  | nil => exact disp (.inl hs) (by simp [fetch, hs])
  | cons x r =>
    cases x with
    | dispatcher => exact disp (.inr (by simp [hs])) (by simp [fetch, hs])
    | env e =>
      by_cases he : e = .waitExpires
      · subst he
        unfold step fetch at h
        rw [hs] at h
        dsimp only at h
        by_cases hw : waitExpiryEnabled s = true
        · rw [if_pos hw] at h; exact .timeout t hw (by simp [hs]) h
        · rw [if_neg hw] at h; cases h; exact .advance
      · have hf : fetch s = .advance := by
          unfold fetch; rw [hs]; cases e <;> first | rfl | exact absurd rfl he
        unfold step at h
        rw [hf] at h
        cases h; exact .advance

end Sys2Proof.Laws
end

