-- ==== Sys2Proof/Tests/Slice0.lean ====
section
/-! SUPPORT. Named tests. The words and the expected results are those of 95_test_vectors; the last part
shows for every statement of Obligations.lean that has hypotheses that something meets them. -/

namespace Sys2Proof.Tests
open Sys2Proof.Machine Sys2Proof.Safety

/-! ## WellFormed refuses what has no encoding -/

theorem test_wf_writeAll_249 : (Instr.writeAll 0 (List.replicate 249 0)).wellFormed = false := by decide +kernel
theorem test_wf_verify_249 : (Instr.verify 0 (List.replicate 249 0)).wellFormed = false := by decide +kernel
theorem test_wf_saveProfile_63 : (Instr.saveProfile 0 (List.replicate 63 0)).wellFormed = false := by decide +kernel
theorem test_wf_saveProfile_65 : (Instr.saveProfile 0 (List.replicate 65 0)).wellFormed = false := by decide +kernel
theorem test_wf_unknown_command_code : (Instr.unknown 0x08 []).wellFormed = false := by decide +kernel
theorem test_wf_unknown_253 : (Instr.unknown 0x09 (List.replicate 253 0)).wellFormed = false := by decide +kernel
theorem test_wf_readAllResult_247 : (Instr.readAllResult (List.replicate 247 0)).wellFormed = false := by decide +kernel
theorem test_wf_error_253 : (Instr.error (List.replicate 253 0)).wellFormed = false := by decide +kernel
theorem test_wf_busRead_0 : (Instr.busRead 0 0).wellFormed = false := by decide +kernel
theorem test_wf_busRead_249 : (Instr.busRead 0 249).wellFormed = false := by decide +kernel

/-! ## Decoding words written out from the encoding tables (2.3, 2.11; 30_encoding R88, R93) -/

/-- `D = 80 81 .. BF` of section 2.10. -/
def profileD : List Byte := (List.range 64).map fun i => BitVec.ofNat 8 (0x80 + i)

theorem test_decode_readByte :
    decode (.request [0x7E, 0x01, 0x7F, 0x10, 0x10, 0x7F]) = .instr (.readByte 0x7F10) := by decide
theorem test_decode_writeByte :
    decode (.request [0x7E, 0x02, 0x00, 0x21, 0xBC, 0xE1, 0x7F]) = .instr (.writeByte 0x0021 0xBC) := by
  decide
theorem test_decode_readAll :
    decode (.request [0x7E, 0x03, 0x00, 0x00, 0x03, 0xE8, 0x96, 0x7F]) = .instr (.readAll 0 1000) := by
  decide
theorem test_decode_writeAll :
    decode (.request [0x7E, 0x04, 0x00, 0x20, 0x00, 0x02, 0xAA, 0xBB, 0x49, 0x7F]) =
      .instr (.writeAll 0x0020 [0xAA, 0xBB]) := by decide
theorem test_decode_clear :
    decode (.request [0x7E, 0x05, 0x00, 0x03, 0x78, 0x7F]) = .instr (.clear 3) := by decide
theorem test_decode_verify :
    decode (.request [0x7E, 0x06, 0x00, 0x20, 0x00, 0x02, 0xAA, 0xBB, 0x4B, 0x7F]) =
      .instr (.verify 0x0020 [0xAA, 0xBB]) := by decide
theorem test_decode_saveProfile :
    decode (.request ([0x7E, 0x07, 0x01] ++ profileD ++ [0x78, 0x7F])) =
      .instr (.saveProfile 1 profileD) := by decide +kernel
theorem test_decode_loadProfile :
    decode (.request [0x7E, 0x08, 0x02, 0x74, 0x7F]) = .instr (.loadProfile 2) := by decide
theorem test_decode_unknown :
    decode (.request [0x7E, 0x09, 0x01, 0x02, 0x03, 0x77, 0x7F]) = .instr (.unknown 0x09 [1, 2, 3]) := by
  decide
theorem test_decode_ack : decode (.response [0x7E, 0x10, 0x6E, 0x7F]) = .instr .ack := by decide
theorem test_decode_nack :
    decode (.response [0x7E, 0x11, 0x04, 0x6B, 0x7F]) = .instr (.nack 0x04) := by decide
theorem test_decode_readByteResult :
    decode (.response [0x7E, 0x12, 0xAB, 0xC7, 0x7F]) = .instr (.readByteResult 0xAB) := by decide
theorem test_decode_readAllResult :
    decode (.response [0x7E, 0x13, 0x01, 0x02, 0x03, 0x6D, 0x7F]) = .instr (.readAllResult [1, 2, 3]) := by
  decide
theorem test_decode_verifyOk : decode (.response [0x7E, 0x14, 0x6A, 0x7F]) = .instr .verifyOk := by decide
theorem test_decode_verifyFail : decode (.response [0x7E, 0x15, 0x6B, 0x7F]) = .instr .verifyFail := by
  decide
theorem test_decode_error : decode (.response [0x7E, 0x1F, 0x61, 0x7F]) = .instr (.error []) := by decide
theorem test_decode_invalidCommand : decode (.errorCode 0x01) = .instr .invalidCommand := by decide
theorem test_decode_timeout : decode (.errorCode 0x02) = .instr .timeout := by decide
theorem test_decode_checksum : decode (.errorCode 0x03) = .instr .checksum := by decide
theorem test_decode_busFailure : decode (.errorCode 0x04) = .instr .busFailure := by decide
theorem test_decode_busRead : decode (.busCycle [0x03, 0x01, 0x40] 64) = .instr (.busRead 0x0140 64) := by
  decide
theorem test_decode_busWrite :
    decode (.busCycle [0x02, 0x00, 0x10, 0x55] 0) = .instr (.busWrite 0x0010 0x55) := by decide

/-- Section 2.2: the four failing checks, and what the decoder refuses by name. -/
theorem test_decode_refuses :
    decode (.request [0x7E, 0x10, 0x7F]) = .reject .tooShort ∧
    decode (.request [0x7D, 0x10, 0x6D, 0x7F]) = .reject .badHeader ∧
    decode (.request [0x7E, 0x10, 0x6E, 0x7E]) = .reject .badTail ∧
    decode (.request [0x7E, 0x10, 0x6F, 0x7F]) = .reject .badChecksum ∧
    decode (.request [0x7E, 0x01, 0x7F, 0x7F]) = .reject .payloadLength ∧
    decode (.response [0x7E, 0x11, 0x6F, 0x7F]) = .reject .payloadLength ∧
    decode (.response [0x7E, 0x16, 0x68, 0x7F]) = .reject .undefinedResponse ∧
    decode (.errorCode 0x05) = .reject .undefinedErrorCode ∧
    decode (.busCycle [0x01, 0x00, 0x10] 1) = .reject .undefinedBusOpcode ∧
    decode (.busCycle [0x03, 0x00, 0x10] 0) = .reject .busShape := by decide

/-! ## One step each (2.1, 2.4 to 2.13) -/

/-- Reset with a store and the statuses of the bus cycles to come. -/
def start (m : Store) (answers : List CycleStatus) : State :=
  { State.reset with store := m, answers := answers }

/-- Reset with the request frame `f` in the slot and the dispatcher at `d`. -/
def inSlot (d : DispState) (f : List Byte) (m : Store) (answers : List CycleStatus) : State :=
  { start m answers with frameBuf := bufOverwrite zeroBuf f, frameLen := f.length, frameReady := true,
                         dispState := d }

/-- The TX bytes of an outcome that is a next state. -/
def sent : Host.Outcome State Fault Refusal → Option (List Byte)
  | .next t => some (txBytes t.trace)
  | .fault _ => none
  | .refused _ => none

/-- The events of an outcome that is a next state. -/
def events : Host.Outcome State Fault Refusal → Option (List Obs)
  | .next t => some t.trace
  | .fault _ => none
  | .refused _ => none

/-- A store byte after an outcome that is a next state. -/
def storeAfter (a : Half) : Host.Outcome State Fault Refusal → Option Byte
  | .next t => some (storeRead t.store a)
  | .fault _ => none
  | .refused _ => none

theorem test_readByte : sent (exec (.readByte 0x0010) (start [(0x10, 0xAB)] [.ok])) =
    some [0x7E, 0x12, 0xAB, 0xC7, 0x7F] := by decide +kernel
theorem test_readByte_fail :
    sent (step (inSlot .decode [0x7E, 0x01, 0x00, 0x10, 0x6F, 0x7F] [] [.fail])) =
    some [0x7E, 0x11, 0x04, 0x6B, 0x7F] := by decide +kernel
theorem test_writeByte : storeAfter 0x0010
    (step (inSlot .decode [0x7E, 0x02, 0x00, 0x10, 0x55, 0x39, 0x7F] [(0x10, 0xAB)] [.ok])) =
    some 0x55 := by decide +kernel
theorem test_writeByte_fail : sent (exec (.writeByte 0x0010 0x55) (start [] [.fail])) =
    some [0x7E, 0x11, 0x04, 0x6B, 0x7F] := by decide +kernel
theorem test_readAll_wraps : sent (exec (.readAll 0xFFFE 4)
    (start [(0, 0xA3), (1, 0xA4), (0xFFFE, 0xA1), (0xFFFF, 0xA2)] [.ok])) =
    some [0x7E, 0x13, 0xA1, 0xA2, 0xA3, 0xA4, 0x69, 0x7F] := by decide +kernel
/-- The trace of 2.12. -/
theorem test_readAll_trace : events (exec (.readAll 0x0020 3)
    (start [(0x20, 1), (0x21, 2), (0x22, 3)] [.ok])) = some
    [.acqBus, .csAssert, .busOut 0x03, .busOut 0x00, .busOut 0x20, .busIn 0x01, .busIn 0x02, .busIn 0x03,
     .csDeassert, .cycleStatus .ok, .relBus, .acqTx, .tx 0x7E, .tx 0x13, .tx 0x01, .tx 0x02, .tx 0x03,
     .tx 0x6D, .tx 0x7F, .relTx] := by decide +kernel
/-- The trace of 2.12. -/
theorem test_writeAll_trace : events (exec (.writeAll 0x0020 [0xAA, 0xBB]) (start [] [.ok, .ok])) = some
    [.acqBus, .csAssert, .busOut 0x02, .busOut 0x00, .busOut 0x20, .busOut 0xAA, .csDeassert,
     .cycleStatus .ok, .settle, .csAssert, .busOut 0x02, .busOut 0x00, .busOut 0x21, .busOut 0xBB,
     .csDeassert, .cycleStatus .ok, .settle, .relBus, .acqTx, .tx 0x7E, .tx 0x10, .tx 0x6E, .tx 0x7F,
     .relTx] := by decide +kernel
/-- 2.7: the second cycle fails, and no third one is made. -/
theorem test_writeAll_fails_midway : storeAfter 0x0022 (exec (.writeAll 0x0020 [0xAA, 0xBB, 0xCC])
    (start [(0x22, 0x99)] [.ok, .fail, .ok])) = some 0x99 := by decide +kernel
theorem test_clear : storeAfter 0x0002 (exec (.clear 3) (start [] [.ok, .ok, .ok])) = some 0xFF := by
  decide +kernel
theorem test_clear_third_fails : sent (exec (.clear 3) (start [] [.ok, .ok, .fail])) =
    some [0x7E, 0x11, 0x04, 0x6B, 0x7F] := by decide +kernel
theorem test_verify_ok : sent (exec (.verify 0x0020 [0xAA, 0xBB])
    (start [(0x20, 0xAA), (0x21, 0xBB)] [.ok])) = some [0x7E, 0x14, 0x6A, 0x7F] := by decide +kernel
theorem test_verify_differs : sent (exec (.verify 0x0020 [0xAA, 0xBB])
    (start [(0x20, 0xAA), (0x21, 0xBC)] [.ok])) = some [0x7E, 0x15, 0x6B, 0x7F] := by decide +kernel
theorem test_saveProfile_last_byte : storeAfter 0x017F (exec (.saveProfile 1 profileD)
    (start [] (List.replicate 64 .ok))) = some 0xBF := by decide +kernel
theorem test_saveProfile_invalid : events (exec (.saveProfile 4 profileD) (start [] [])) = some
    [.acqTx, .tx 0x7E, .tx 0x11, .tx 0x01, .tx 0x6E, .tx 0x7F, .relTx] := by decide +kernel
theorem test_loadProfile_invalid :
    sent (step (inSlot .decode [0x7E, 0x08, 0x04, 0x72, 0x7F] [] [])) =
    some [0x7E, 0x11, 0x01, 0x6E, 0x7F] := by decide +kernel
theorem test_unknown : sent (step (inSlot .decode [0x7E, 0x09, 0x01, 0x02, 0x03, 0x77, 0x7F] [] [])) =
    some [0x7E, 0x11, 0x01, 0x6E, 0x7F] := by decide +kernel
theorem test_ack : sent (exec .ack State.reset) = some [0x7E, 0x10, 0x6E, 0x7F] := by decide +kernel
theorem test_nack : sent (exec (.nack 0x01) State.reset) = some [0x7E, 0x11, 0x01, 0x6E, 0x7F] := by
  decide +kernel
theorem test_readByteResult : sent (exec (.readByteResult 0xAB) State.reset) =
    some [0x7E, 0x12, 0xAB, 0xC7, 0x7F] := by decide +kernel
theorem test_readAllResult_empty : sent (exec (.readAllResult []) State.reset) =
    some [0x7E, 0x13, 0x6D, 0x7F] := by decide +kernel
theorem test_verifyOk : sent (exec .verifyOk State.reset) = some [0x7E, 0x14, 0x6A, 0x7F] := by
  decide +kernel
theorem test_verifyFail : sent (exec .verifyFail State.reset) = some [0x7E, 0x15, 0x6B, 0x7F] := by
  decide +kernel
/-- 2.11: a payload of the wrong length is InvalidCommand, through a step. -/
theorem test_invalidCommand_wrong_length :
    sent (step (inSlot .decode [0x7E, 0x01, 0x7F, 0x7F] [] [])) =
    some [0x7E, 0x11, 0x01, 0x6E, 0x7F] := by decide +kernel
/-- X9 of 2.13: the wait expires under an external holder. -/
theorem test_timeout : events (step
    { start [] [] with dispState := .busAcquire, busLock := .heldBy .external,
                       params := { busWaitLimit := some 5, hasExternalBusMaster := true,
                                   hasExternalTxUser := false, storeSize := 65536 },
                       schedule := [.env .waitExpires] }) = some
    [.acqTx, .tx 0x7E, .tx 0x11, .tx 0x02, .tx 0x6D, .tx 0x7F, .relTx] := by decide +kernel
/-- X4 of 2.13: silence. -/
theorem test_checksum_silence :
    events (step (inSlot .validate [0x7E, 0x10, 0x6F, 0x7F] [] [])) = some [] := by decide +kernel
theorem test_busFailure : sent (exec .busFailure State.reset) = some [0x7E, 0x11, 0x04, 0x6B, 0x7F] := by
  decide +kernel
theorem test_busRead : events (exec (.busRead 0x0140 1)
    { start [(0x140, 0x80)] [.ok] with busLock := .heldBy .dispatcher, dispState := .busRun }) = some
    [.csAssert, .busOut 0x03, .busOut 0x01, .busOut 0x40, .busIn 0x80, .csDeassert, .cycleStatus .ok] := by
  decide +kernel
theorem test_busWrite : events (exec (.busWrite 0x0010 0x55)
    { start [] [.ok] with busLock := .heldBy .dispatcher, dispState := .busRun }) = some
    [.csAssert, .busOut 0x02, .busOut 0x00, .busOut 0x10, .busOut 0x55, .csDeassert, .cycleStatus .ok,
     .settle] := by decide +kernel

/-- 2.1: a tail at length 2 and 3 is data, at length 4 it completes the frame. -/
theorem test_assembler_tail_is_data : slotFrame (receive [0x7E, 0x7F, 0x7F, 0x7F] State.reset) =
    [0x7E, 0x7F, 0x7F, 0x7F] := by decide +kernel
/-- 2.1: the tail in the payload cuts the frame. -/
theorem test_assembler_cut :
    slotFrame (receive [0x7E, 0x02, 0x00, 0x10, 0x7F, 0x13, 0x7F] State.reset) =
    [0x7E, 0x02, 0x00, 0x10, 0x7F] := by decide +kernel
/-- 2.1: 257 bytes overflow, and the last of them is not looked at again. -/
theorem test_assembler_overflow :
    (receive ([0x7E] ++ List.replicate 255 0 ++ [0x7E]) State.reset).asmState = .waitingForHeader ∧
    (receive ([0x7E] ++ List.replicate 255 0 ++ [0x7E]) State.reset).frameReady = false := by decide +kernel

/-! ## The hypotheses of the statements are met, clause by clause at boundary values -/

/-- Quiet, with a known store and `n` good cycles to come. -/
def good (n : Nat) : State := start [(0, 1)] (List.replicate n .ok)

/-- The `n` zero bytes. -/
def zeros (n : Nat) : List Byte := List.replicate n 0

/-- An external master holds `bus_lock`; the parameters allow it and set BUS_WAIT_LIMIT. -/
def heldOutside : State :=
  { good 0 with busLock := .heldBy .external,
                params := { busWaitLimit := some 5, hasExternalBusMaster := true,
                            hasExternalTxUser := true, storeSize := 65536 } }

/-- The dispatcher holds `bus_lock` in `BusRun`, with a plan. -/
def holding (p : Plan) (answers : List CycleStatus) : State :=
  { start [(0, 1)] answers with busLock := .heldBy .dispatcher, dispState := .busRun, plan := p }

/-- A write cycle of 2 to address 0 at its end, under BUS_WAIT_LIMIT. -/
def writing : State :=
  { holding (.bus (.writeBlock 0 [2]) .ack) [] with
    cs := .asserted, cycle := some { op := .write 0 2, pos := 4, status := .ok },
    params := { busWaitLimit := some 5, hasExternalBusMaster := false, hasExternalTxUser := false,
                storeSize := 65536 } }

/-- `s` with a device that has the addresses below 0x0200 only. -/
def small (s : State) : State := { s with params := { s.params with storeSize := 0x200 } }

theorem test_hyp_DecodeEncode :
    (Instr.writeAll 0xFFFF (zeros 248)).wellFormed = true ∧
    (Instr.unknown 0x00 (zeros 252)).wellFormed = true ∧ (Instr.unknown 0x09 []).wellFormed = true ∧
    (Instr.readAllResult (zeros 246)).wellFormed = true ∧
    (Instr.saveProfile 0xFF (zeros 64)).wellFormed = true ∧ (Instr.busRead 0 1).wellFormed = true ∧
    (Instr.busRead 0 248).wellFormed = true := by decide +kernel

theorem test_hyp_BuildFrameLayout : (zeros 0).length ≤ 252 ∧ (zeros 252).length ≤ 252 := by decide +kernel

theorem test_hyp_OneByteChangeRejected :
    validate [0x7E, 0x10, 0x6E, 0x7F] = true ∧ 0 < [0x7E, 0x10, 0x6E, 0x7F].length ∧
    (0x7F : Byte) ≠ byteAt [0x7E, 0x10, 0x6E, 0x7F] 0 ∧ 3 < [0x7E, 0x10, 0x6E, 0x7F].length ∧
    (0x7E : Byte) ≠ byteAt [0x7E, 0x10, 0x6E, 0x7F] 3 := by decide

theorem test_hyp_PushWaiting :
    State.reset.asmState = .waitingForHeader ∧ (0x7F : Byte) ≠ 0x7E ∧ (0x7E : Byte) = 0x7E := by decide

theorem test_hyp_PushCollecting :
    (∀ n ∈ [1, 2, 3, 255, 256], ({ good 0 with asmState := .collecting, asmLen := n } : State).asmState =
      .collecting) ∧
    (255 ≤ 255 ∧ ¬((0x7E : Byte) = 0x7F ∧ 4 ≤ 255 + 1)) ∧ (2 ≤ 255 ∧ ¬((0x7F : Byte) = 0x7F ∧ 4 ≤ 2 + 1)) ∧
    (3 ≤ 255 ∧ (0x7F : Byte) = 0x7F ∧ 4 ≤ 3 + 1) ∧ (4 ≤ 255 + 1) ∧
    ({ good 0 with asmState := .collecting, asmLen := 3 } : State).frameReady = false ∧
    ({ good 0 with asmState := .collecting, asmLen := 255, frameReady := true } : State).frameReady =
      true := by decide

theorem test_hyp_FrameHandedOff :
    State.reset.asmState = .waitingForHeader ∧ State.reset.frameReady = false ∧
    (∀ f ∈ [[0x7E, 0x10, 0x6E, 0x7F], 0x7E :: zeros 254 ++ [0x7F]],
      4 ≤ f.length ∧ f.length ≤ 256 ∧ byteAt f 0 = 0x7E ∧ byteAt f (f.length - 1) = 0x7F ∧
      ∀ i < 255, 3 ≤ i → i + 1 < f.length → byteAt f i ≠ 0x7F) ∧
    (∀ p ∈ [([0x7E, 0x01, 0x00, 0x7F, 0x7F], 3), ([0x7E, 0x02, 0x00, 0x10, 0x7F, 0x13, 0x7F], 4)],
      4 ≤ p.1.length ∧ byteAt p.1 0 = 0x7E ∧ byteAt p.1 (p.1.length - 1) = 0x7F ∧
      3 ≤ p.2 ∧ p.2 + 1 < p.1.length ∧ byteAt p.1 p.2 = 0x7F ∧
      ∀ j < p.2, 3 ≤ j → byteAt p.1 j ≠ 0x7F) := by decide +kernel

theorem test_hyp_RxFrame : (inSlot .idle [0x7E, 0x10, 0x6E, 0x7F] [] []).frameReady = true := by decide

theorem test_hyp_RxCommutesWithDispatcher :
    (inSlot .idle [0x7E, 0x10, 0x6E, 0x7F] [] []).frameReady = true ∧
    (dispatcherTurn (inSlot .idle [0x7E, 0x10, 0x6E, 0x7F] [] [])).frameReady = true ∧
    (dispatcherTurn (inSlot .idle [0x7E, 0x10, 0x6E, 0x7F] [] [])).dispState = .validate := by
  decide +kernel

theorem test_hyp_ReadByteAnswered : Quiet (good 1) ∧ nextStatus (good 1) = .ok := by decide

theorem test_hyp_WriteByteAnswered : Quiet (good 1) ∧ nextStatus (good 1) = .ok := by decide

theorem test_hyp_ReadAllAnswered :
    Quiet (good 0) ∧ Quiet (good 1) ∧ nextStatus (good 1) = .ok ∧ ((0 : Half) ≠ 0 → nextStatus (good 0) = .ok) ∧
    ((0xFFFF : Half) ≠ 0 → nextStatus (good 1) = .ok) := by decide

theorem test_hyp_WriteAllAnswered :
    Quiet (good 248) ∧ (zeros 248).length ≤ 248 ∧ CyclesOk (zeros 248).length (good 248) ∧
    CyclesOk (zeros 0).length (good 0) := by unfold CyclesOk; decide +kernel

theorem test_hyp_ClearAnswered :
    Quiet (good 246) ∧ CyclesOk (min (0xFEFE : Half).toNat 246) (good 246) ∧
    CyclesOk (min (0 : Half).toNat 246) (good 0) := by unfold CyclesOk; decide +kernel

theorem test_hyp_VerifyAnswered :
    Quiet (good 1) ∧ (zeros 248).length ≤ 248 ∧ (zeros 248 ≠ [] → nextStatus (good 1) = .ok) ∧
    (zeros 0).length ≤ 248 ∧ (zeros 0 ≠ [] → nextStatus (good 0) = .ok) := by decide +kernel

theorem test_hyp_SaveProfileAnswered :
    Quiet (good 64) ∧ (0 : Byte).toNat < 4 ∧ (3 : Byte).toNat < 4 ∧ profileD.length = 64 ∧
    CyclesOk 64 (good 64) := by unfold CyclesOk; decide +kernel

theorem test_hyp_LoadProfileAnswered :
    Quiet (good 1) ∧ (0 : Byte).toNat < 4 ∧ (3 : Byte).toNat < 4 ∧ nextStatus (good 1) = .ok := by decide

theorem test_hyp_InvalidProfileNacked :
    CanSend heldOutside ∧ 4 ≤ (4 : Byte).toNat ∧ 4 ≤ (0xFF : Byte).toNat ∧ profileD.length = 64 ∧
    heldOutside.busLock ≠ .heldBy .dispatcher := by decide

theorem test_hyp_UnknownNacked : CanSend heldOutside ∧ heldOutside.busLock ≠ .heldBy .dispatcher := by
  decide

theorem test_hyp_FailedReadNacked :
    Quiet (start [] [.fail]) ∧ nextStatus (start [] [.fail]) = .fail ∧ (0xFFFF : Half) ≠ 0 ∧
    zeros 248 ≠ [] ∧ (zeros 248).length ≤ 248 ∧ (3 : Byte).toNat < 4 := by decide +kernel

/-- Failures at the first byte, and at the last of a profile, of a clear and of a block. -/
theorem test_hyp_FailedWriteNacked :
    (∀ k ∈ [0, 63, 245, 247], Quiet (start [] (List.replicate k .ok ++ [.fail])) ∧
      (∀ j < k, nextStatus (popStatuses j (start [] (List.replicate k .ok ++ [.fail]))) = .ok) ∧
      nextStatus (popStatuses k (start [] (List.replicate k .ok ++ [.fail]))) = .fail) ∧
    (zeros 248).length ≤ 248 ∧ profileD.length = 64 ∧ (3 : Byte).toNat < 4 ∧ 247 < (zeros 248).length ∧
    245 < min (0xFFFF : Half).toNat 246 ∧ 63 < 64 := by decide +kernel

theorem test_hyp_ZeroLengthNoCycle : Quiet (good 0) := by decide

theorem test_hyp_RequestFrame :
    Quiet (good 0) ∧ isRequest (.writeAll 0xFFFF [1, 2]) = true ∧
    (Instr.writeAll 0xFFFF [1, 2]).wellFormed = true ∧
    (∀ k < (storedBlock (.writeAll 0xFFFF [1, 2])).2,
      (1 : Half) ≠ deviceCell (good 0).params ((good 0).draws + 1 + k)
        (blockAddr (storedBlock (.writeAll 0xFFFF [1, 2])).1 k)) := by decide

theorem test_hyp_DispatchIsAFunction :
    Quiet (good 3) ∧ Quiet { good 3 with reqAddr := 7, busStatus := .fail } ∧ isRequest (.clear 3) = true ∧
    (Instr.clear 3).wellFormed = true ∧
    ({ good 3 with reqAddr := 7, busStatus := .fail } : State) ≠ good 3 ∧
    (heldOutside.params ≠ (good 3).params ∧
      heldOutside.params.storeSize = (good 3).params.storeSize) := by
  decide +kernel

theorem test_hyp_ResponsesSent : CanSend heldOutside ∧ (zeros 246).length ≤ 246 := by decide +kernel

theorem test_hyp_NackSent :
    CanSend heldOutside ∧ heldOutside.params.busWaitLimit.isSome = true := by decide

theorem test_hyp_NackNeverSent :
    (0x03 : Byte) ≠ 0x01 ∧ (0x03 : Byte) ≠ 0x04 ∧
    ((0x03 : Byte) = 0x02 → heldOutside.params.busWaitLimit = none) ∧
    (0x02 : Byte) ≠ 0x01 ∧ (0x02 : Byte) ≠ 0x04 ∧ State.reset.params.busWaitLimit = none := by decide

theorem test_hyp_InvalidCommandNacked :
    CanSend (good 0) ∧ (good 0).busLock ≠ .heldBy .dispatcher ∧
    CanSend (holding (.reply 0x11 [0x01]) []) ∧
    (holding (.reply 0x11 [0x01]) []).busLock = .heldBy .dispatcher := by decide

theorem test_hyp_BusFailureNacked :
    CanSend (good 0) ∧ (good 0).busLock ≠ .heldBy .dispatcher ∧
    CanSend (holding (.reply 0x11 [0x01]) []) ∧
    (holding (.reply 0x11 [0x01]) []).busLock = .heldBy .dispatcher := by decide

theorem test_hyp_TimeoutNacked :
    CanSend heldOutside ∧ heldOutside.params.busWaitLimit.isSome = true ∧
    heldOutside.busLock ≠ .heldBy .dispatcher ∧ (good 0).params.busWaitLimit = none := by decide

theorem test_hyp_BusReadCycle :
    HoldsBus (holding (.reply 0x11 [0x01]) [.ok]) ∧
    nextStatus (holding (.reply 0x11 [0x01]) [.ok]) = .ok ∧
    HoldsBus (holding (.reply 0x11 [0x01]) [.fail]) ∧
    nextStatus (holding (.reply 0x11 [0x01]) [.fail]) = .fail ∧ 1 ≤ 1 ∧ 248 ≤ 248 := by decide

theorem test_hyp_BusWriteCycle :
    HoldsBus (holding (.reply 0x11 [0x01]) [.ok]) ∧
    nextStatus (holding (.reply 0x11 [0x01]) [.ok]) = .ok ∧
    HoldsBus (holding (.reply 0x11 [0x01]) [.fail]) ∧
    nextStatus (holding (.reply 0x11 [0x01]) [.fail]) = .fail := by decide

theorem test_hyp_NoCycleWithoutLock :
    heldOutside.busLock ≠ .heldBy .dispatcher ∧ heldOutside.cycle = none ∧ heldOutside.settling = false ∧
    (good 0).busLock ≠ .heldBy .dispatcher := by decide

theorem test_hyp_StepRunsDecoded :
    ((good 0).schedule = [] ∧ (good 0).cycle = none ∧ (good 0).settling = false) ∧
    ({ good 0 with schedule := [.dispatcher] } : State).schedule.head? = some .dispatcher ∧
    (let s := inSlot .decode [0x7E, 0x01, 0x00, 0x10, 0x6F, 0x7F] [] []
     s.dispState = .decode ∧ s.schedule = [] ∧ s.cycle = none ∧ s.settling = false ∧
     decode (.request (slotFrame s)) = .instr (.readByte 0x0010)) ∧
    (let s := { good 0 with dispState := .respond, plan := .bus (.writeBlock 0 [1]) .ack }
     s.dispState = .respond ∧
     decode (.response (buildFrame (chooseResponse s).1 (chooseResponse s).2)) = .instr .ack) ∧
    (let s := holding (.bus (.writeBlock 0xFFFF [1, 2]) .ack) []
     s.cycle = none ∧ s.dispState = .busRun ∧ nextOp s = some (.write 0xFFFF 1)) ∧
    (let s := { holding (.bus (.readBlock 0 1) .readByteResult) [] with busStatus := .fail }
     s.dispState = .busRun ∧ s.busStatus = .fail) := by decide +kernel

theorem test_hyp_ValidationGate :
    (let s := inSlot .validate [0x7E, 0x10, 0x6E, 0x7F] [] []
     s.schedule = [] ∧ s.cycle = none ∧ s.settling = false ∧ s.dispState = .validate ∧
     validate (slotFrame s) = true) ∧
    (let s := inSlot .validate [0x7E, 0x10, 0x6F, 0x7F] [] []
     s.dispState = .validate ∧ validate (slotFrame s) = false) := by decide +kernel

/-- For each command a payload one byte too short or too long, or a `size` field one off. -/
theorem test_hyp_WrongLengthNacked :
    ∀ q ∈ [((0x01 : Byte), zeros 1), (0x01, zeros 3), (0x02, zeros 2), (0x02, zeros 4), (0x03, zeros 3),
      (0x03, zeros 5), (0x04, zeros 3), (0x04, [0, 0x20, 0, 3, 0xAA, 0xBB]),
      (0x06, [0, 0x20, 0, 1, 0xAA, 0xBB]), (0x05, zeros 1), (0x05, zeros 3), (0x07, zeros 64),
      (0x07, zeros 66), (0x08, zeros 0), (0x08, zeros 2)],
    let s := inSlot .decode (buildFrame q.1 q.2) [] []
    CanSend s ∧ s.busLock ≠ .heldBy .dispatcher ∧ s.dispState = .decode ∧ frameCode (slotFrame s) = q.1 ∧
    framePayload (slotFrame s) = q.2 ∧
    ((q.1 = 0x01 ∧ q.2.length ≠ 2) ∨ (q.1 = 0x02 ∧ q.2.length ≠ 3) ∨ (q.1 = 0x03 ∧ q.2.length ≠ 4) ∨
      ((q.1 = 0x04 ∨ q.1 = 0x06) ∧
        ¬(4 ≤ q.2.length ∧ (be16 (byteAt q.2 2) (byteAt q.2 3)).toNat = q.2.length - 4)) ∨
      (q.1 = 0x05 ∧ q.2.length ≠ 2) ∨ (q.1 = 0x07 ∧ q.2.length ≠ 65) ∨
      (q.1 = 0x08 ∧ q.2.length ≠ 1)) := by decide +kernel

theorem test_hyp_OneResponsePerRequest :
    (let s := inSlot .idle [0x7E, 0x10, 0x6E, 0x7F] [] []
     Quiet s ∧ s.dispState = .idle ∧ s.frameReady = true ∧ validate (slotFrame s) = true) ∧
    (let s := inSlot .idle [0x7E, 0x10, 0x6F, 0x7F] [] []
     Quiet s ∧ s.dispState = .idle ∧ s.frameReady = true ∧ validate (slotFrame s) = false) := by
  decide +kernel

theorem test_hyp_HeldBusLockStalls :
    usesBus (.readByte 0) = true ∧ usesBus (.loadProfile 3) = true ∧
    heldOutside.busLock = .heldBy .external ∧ heldOutside.schedule = [] ∧ heldOutside.cycle = none ∧
    heldOutside.settling = false := by decide

theorem test_hyp_HeldTxLockStalls :
    let s := { good 0 with txLock := .heldBy .external }
    s.txLock = .heldBy .external ∧ s.schedule = [] ∧ s.cycle = none ∧ s.settling = false ∧
    (zeros 246).length ≤ 246 := by decide +kernel

theorem test_hyp_WaitExpiry :
    let s := { heldOutside with dispState := .busAcquire, schedule := [.env .waitExpires] }
    s.schedule = [.env .waitExpires] ∧ s.busLock = .heldBy .external ∧ s.dispState = .busAcquire ∧
    s.cycle = none ∧ s.settling = false ∧ s.txReady = true ∧ s.txLock = .free ∧
    s.params.busWaitLimit.isSome = true ∧
    ({ s with params := State.reset.params } : State).params.busWaitLimit = none := by decide

/-- A read cycle of two bytes at address 0x01FE, one of them in, under BUS_WAIT_LIMIT. -/
def reading : State :=
  { writing with cycle := some { op := .read 0x01FE 2, pos := 4, status := .ok }, dataBuf := bufSet zeroBuf 0 9,
                 schedule := [.env .transferExpires] }

theorem test_hyp_TransferExpiry :
    (let s := { writing with schedule := [.env .transferExpires] }
     s.schedule = [.env .transferExpires] ∧
     s.cycle = some { op := .write 0 2, pos := 4, status := .ok } ∧
     s.params.busWaitLimit.isSome = true ∧ (1 : Half) ≠ deviceCell s.params s.draws 0 ∧
     ({ s with params := State.reset.params } : State).params.busWaitLimit = none) ∧
    reading.schedule = [.env .transferExpires] ∧ reading.params.busWaitLimit.isSome = true ∧
    reading.cycle = some { op := .read 0x01FE 2, pos := 4, status := .ok } ∧
    ∀ d, BusOp.read 0x01FE 2 ≠ .write 0 d := by decide

/-- R190, U1: an expired read leaves no byte it had clocked in. -/
theorem test_expired_read_is_unspecified :
    bufGet (turn reading).dataBuf 0 = Config.freeByte reading.draws := by rfl

/-- U11 (log 23): a read of the first address a small device has not got completes, and its last address
reads as the store has it. -/
theorem test_read_outside_device :
    (sent (exec (.readByte 0x0200) (small (good 1)))).map List.length = some 5 ∧
    deviceRead (small (good 1)).params 0 [(0x1FF, 7)] 0x01FF = 7 := ⟨by decide +kernel, rfl⟩

/-- The assembler has collected a header, a frame waits in the slot, and a byte arrives. -/
def collectingWithFrame : State :=
  { inSlot .idle [0x7E, 0x10, 0x6E, 0x7F] [] [] with
    asmState := .collecting, asmLen := 1, asmBuf := bufSet zeroBuf 0 0x7E, schedule := [.env (.rx 0x01)] }

theorem test_hyp_StepKeepsFrames :
    AsmInv collectingWithFrame ∧ SlotInv collectingWithFrame ∧ collectingWithFrame.frameReady = true ∧
    step collectingWithFrame = .next (turn collectingWithFrame) := by
  refine ⟨⟨fun h => (by cases h), fun _ => ⟨by decide +kernel, by decide +kernel, by decide +kernel,
    fun i h3 h1 => ?_⟩⟩, fun _ => ⟨by decide +kernel, by decide +kernel, by decide +kernel,
    by decide +kernel, fun i h3 h1 => ?_⟩, rfl, rfl⟩
  · have : i < 1 := h1
    omega
  · have : i + 1 < 4 := h1
    omega

theorem test_hyp_StepKeepsLocks : LockInv writing ∧ step writing = .next (turn writing) :=
  ⟨by unfold LockInv; decide, rfl⟩

theorem test_hyp_StepKeepsExternal :
    let s := { heldOutside with schedule := [.env .extReleaseBus] }
    ExternalInv s ∧ step s = .next (turn s) := ⟨by unfold ExternalInv; decide, rfl⟩

theorem test_hyp_StepKeepsStoreForm : StoreInv writing ∧ step writing = .next (turn writing) :=
  ⟨by unfold StoreInv; decide, rfl⟩

/-- A response under way. -/
theorem test_hyp_StepKeepsResponses :
    let s := { respondWith 0x10 [] (good 0) with dispState := .txRun, txLock := .heldBy .dispatcher }
    PlanInv s ∧ RespInv s ∧ step s = .next (turn s) := by
  refine ⟨⟨by decide, rfl, 0x01, rfl, by decide⟩, fun _ => ⟨⟨0x10, [], .inl ⟨rfl, rfl⟩, rfl, ?_⟩, ?_⟩, rfl⟩
  · decide +kernel
  · exact fun _ => by decide

theorem test_hyp_NothingStops : PlanInv State.reset := ⟨by decide, rfl, 0x01, rfl, by decide⟩

theorem test_hyp_EventsUnderLock :
    LockInv writing ∧ Obs.csDeassert ∈ (turn writing).trace ∧ isBusEvent .csDeassert = true := by
  unfold LockInv; decide +kernel

/-- The dispatcher gives `bus_lock` back at the end of its primitive and at reset; an external holder
releases its own. -/
theorem test_hyp_BusLockDiscipline :
    (let s := { holding (.bus (.writeBlock 0 [2]) .ack) [] with blkIndex := 1 }
     s.busLock = .heldBy .dispatcher ∧ (turn s).busLock ≠ .heldBy .dispatcher) ∧
    (let s := { writing with schedule := [.env .reset] }
     s.busLock = .heldBy .dispatcher ∧ (turn s).busLock ≠ .heldBy .dispatcher) ∧
    (let s := { heldOutside with schedule := [.env .extReleaseBus] }
     s.busLock = .heldBy .external ∧ (turn s).busLock ≠ .heldBy .external) ∧
    (turn { good 0 with dispState := .busAcquire }).busLock = .heldBy .dispatcher := by decide +kernel

theorem test_hyp_WhoChangesTheStore :
    storeRead (turn writing).store 0 ≠ storeRead writing.store 0 ∧
    (let s := { heldOutside with schedule := [.env (.extStore 0 9)] }
     storeRead (turn s).store 0 ≠ storeRead s.store 0) := by decide +kernel

theorem test_hyp_ResetAtAnyMoment : envAct .reset writing = resetMachine writing := rfl

theorem test_hyp_ReadAfterBlockWrite :
    [(1 : Byte), 2].length ≤ 65536 ∧ 1 < [(1 : Byte), 2].length ∧
    (∀ k < [(1 : Byte), 2].length, inDevice (good 0).params (blockAddr 0xFFFF k) = true) ∧
    (∀ k < [(1 : Byte), 2].length, inDevice (small (good 0)).params (blockAddr 0x01FE k) = true) ∧
    (∀ k < [(1 : Byte), 2].length, (1 : Half) ≠ 0xFFFF + BitVec.ofNat 16 k) ∧
    (∀ k < [(1 : Byte), 2].length, (1 : Half) ≠ deviceCell (good 0).params (0 + k) (blockAddr 0xFFFF k)) ∧
    65536 ≤ (good 0).params.storeSize := by decide

theorem test_hyp_ProfileRegions :
    (0 : Byte).toNat < 4 ∧ (3 : Byte).toNat < 4 ∧ 0 < 64 ∧ 63 < 64 ∧
    blockAddr (profileAddress 3) 63 = blockAddr (profileAddress 3) 63 ∧
    0x100 ≤ (0x100 : Half).toNat ∧ (0x1FF : Half).toNat ≤ 0x1FF := by decide

theorem test_hyp_WriteAllThenReadAll :
    Quiet (good 247) ∧ (zeros 246).length ≤ 246 ∧
    (∀ k < (zeros 246).length, inDevice (good 247).params (blockAddr 0xFFFF k) = true) ∧
    CyclesOk ((zeros 246).length + 1) (good 247) ∧
    (∀ k < [(1 : Byte), 2].length, inDevice (small (good 3)).params (blockAddr 0x01FE k) = true) ∧
    Quiet (small (good 3)) ∧ CyclesOk 3 (small (good 3)) := by
  unfold CyclesOk; decide +kernel

theorem test_hyp_SaveThenLoad :
    (∀ s ∈ [good 65, small (good 65)], Quiet s ∧ 0x200 ≤ s.params.storeSize ∧ CyclesOk 65 s) ∧
    (0 : Byte).toNat < 4 ∧ (3 : Byte).toNat < 4 ∧ profileD.length = 64 ∧ (0 : Byte) ≠ 3 := by
  unfold CyclesOk; decide +kernel

end Sys2Proof.Tests
end

/-! `push_byte` of the frame assembler: one equation for each case of 40_frame_assembler
(W-skip, W-start, C-overflow, C-append, C-complete) and for each of the two hand-offs. -/

namespace Sys2Proof.Proofs.FrameAssembler
open Sys2Proof Sys2Proof.Machine

/-! ## The hand-off (R117, R118) -/

theorem handOff_of_slot_free {s : State} (h : s.frameReady = false) (n : Nat) :
    handOff n s = { s with
      frameBuf := bufOverwrite s.frameBuf (bufPrefix s.asmBuf n), frameLen := n, frameReady := true } := by
  simp [handOff, h]

theorem handOff_of_slot_occupied {s : State} (h : s.frameReady = true) (n : Nat) :
    handOff n s = s := by
  simp [handOff, h]

/-! ## Appending a byte (R115) -/

/-- `asm_buf[asm_len] <- b; asm_len <- asm_len + 1`, the write that C-append and C-complete share. -/
def asmAppend (b : Byte) (s : State) : State :=
  { s with asmBuf := bufSet s.asmBuf s.asmLen b, asmLen := s.asmLen + 1 }

@[simp] theorem asmAppend_frameReady (b : Byte) (s : State) :
    (asmAppend b s).frameReady = s.frameReady := rfl

/-! ## In `WaitingForHeader` (R111, R112) -/

theorem pushByte_skip {b : Byte} {s : State} (hw : s.asmState = .waitingForHeader)
    (hb : b ≠ Config.header) : pushByte b s = s := by
  simp [pushByte, hw, hb]

theorem pushByte_start {s : State} (hw : s.asmState = .waitingForHeader) :
    pushByte Config.header s =
      { s with asmBuf := bufSet s.asmBuf 0 Config.header, asmLen := 1, asmState := .collecting } := by
  simp [pushByte, hw]

/-! ## In `Collecting` (R113, R115, R116) -/

/-- C-overflow: the test comes before the append, so the byte is dropped with the buffer (D3). -/
theorem pushByte_overflow {s : State} (hc : s.asmState = .collecting)
    (hlen : Config.maxFrameSize ≤ s.asmLen) (b : Byte) : pushByte b s = asmRestart s := by
  simp [pushByte, hc, Nat.lt_succ_of_le hlen]

/-- C-append: the byte does not complete a frame, being no TAIL or coming too early. -/
theorem pushByte_append {b : Byte} {s : State} (hc : s.asmState = .collecting)
    (hlen : s.asmLen < Config.maxFrameSize)
    (hmore : ¬(b = Config.tail ∧ Config.minFrameSize ≤ s.asmLen + 1)) :
    pushByte b s = asmAppend b s := by
  simp only [pushByte, asmAppend, hc, Nat.not_lt.mpr (Nat.succ_le_of_lt hlen), hmore, if_false]

/-- C-complete: the "current length" of R116 is the length with the TAIL appended. -/
theorem pushByte_complete {s : State} (hc : s.asmState = .collecting)
    (hlen : s.asmLen < Config.maxFrameSize) (hmin : Config.minFrameSize ≤ s.asmLen + 1) :
    pushByte Config.tail s = asmRestart (handOff (s.asmLen + 1) (asmAppend Config.tail s)) := by
  simp [pushByte, asmAppend, hc, Nat.not_lt.mpr (Nat.succ_le_of_lt hlen), hmin]

/-- C-complete with the slot free: the frame, TAIL included, is in the slot (R117). -/
theorem pushByte_complete_free {s : State} (hc : s.asmState = .collecting)
    (hlen : s.asmLen < Config.maxFrameSize) (hmin : Config.minFrameSize ≤ s.asmLen + 1)
    (hfree : s.frameReady = false) :
    pushByte Config.tail s = { s with
      asmBuf := bufSet s.asmBuf s.asmLen Config.tail, asmLen := 0, asmState := .waitingForHeader,
      frameBuf := bufOverwrite s.frameBuf
        (bufPrefix (bufSet s.asmBuf s.asmLen Config.tail) (s.asmLen + 1)),
      frameLen := s.asmLen + 1, frameReady := true } := by
  have hslot : (asmAppend Config.tail s).frameReady = false := by simp [hfree]
  rw [pushByte_complete hc hlen hmin, handOff_of_slot_free hslot]
  rfl

/-- C-complete with the slot occupied: the slot keeps the older frame (R118, D4). -/
theorem pushByte_complete_occupied {s : State} (hc : s.asmState = .collecting)
    (hlen : s.asmLen < Config.maxFrameSize) (hmin : Config.minFrameSize ≤ s.asmLen + 1)
    (hocc : s.frameReady = true) :
    pushByte Config.tail s = { s with
      asmBuf := bufSet s.asmBuf s.asmLen Config.tail, asmLen := 0, asmState := .waitingForHeader } := by
  have hslot : (asmAppend Config.tail s).frameReady = true := by simp [hocc]
  rw [pushByte_complete hc hlen hmin, handOff_of_slot_occupied hslot]
  rfl

/-! ## The statements -/

/-- Settles O6: W-skip and W-start. -/
theorem pushWaiting : Obligations.PushWaiting := by
  intro b s hw
  refine ⟨pushByte_skip hw, ?start⟩
  case start =>
    rintro rfl
    exact pushByte_start hw

/-- Settles O7: C-overflow, C-append, and C-complete with its two hand-offs. -/
theorem pushCollecting : Obligations.PushCollecting := by
  intro b s hc
  refine ⟨?overflow, ?append, ?free, ?occupied⟩
  case overflow =>
    intro hfull
    exact pushByte_overflow hc hfull.ge b
  case append =>
    intro hlen hmore
    exact pushByte_append hc (Nat.lt_succ_of_le hlen) hmore
  case free =>
    rintro hlen rfl hmin hfree
    exact pushByte_complete_free hc (Nat.lt_succ_of_le hlen) hmin hfree
  case occupied =>
    rintro hlen rfl hmin hocc
    exact pushByte_complete_occupied hc (Nat.lt_succ_of_le hlen) hmin hocc

end Sys2Proof.Proofs.FrameAssembler

/-! `validate` of the frame validator: one equation for each outcome of the checks V1 to V4 of
41_frame_validator R130, taken in their order, and the four of them as one condition on the frame. -/

namespace Sys2Proof.Proofs.FrameValidator
open Sys2Proof Sys2Proof.Machine

/-! ## The first check that fails -/

section
variable {f : List Byte}

theorem firstFailure_of_too_short (hshort : f.length < Config.minFrameSize) :
    firstFailure f = some .tooShort := by
  simp [firstFailure, hshort]

theorem firstFailure_of_bad_header (hlen : Config.minFrameSize ≤ f.length)
    (hbad : byteAt f 0 ≠ Config.header) : firstFailure f = some .badHeader := by
  simp [firstFailure, hlen.not_gt, hbad]

theorem firstFailure_of_bad_tail (hlen : Config.minFrameSize ≤ f.length)
    (hhead : byteAt f 0 = Config.header) (hbad : byteAt f (f.length - 1) ≠ Config.tail) :
    firstFailure f = some .badTail := by
  simp [firstFailure, hlen.not_gt, hhead, hbad]

theorem firstFailure_of_bad_checksum (hlen : Config.minFrameSize ≤ f.length)
    (hhead : byteAt f 0 = Config.header) (htail : byteAt f (f.length - 1) = Config.tail)
    (hbad : xorFold (f.take (f.length - 2)) ≠ byteAt f (f.length - 2)) :
    firstFailure f = some .badChecksum := by
  simp [firstFailure, hlen.not_gt, hhead, htail, hbad]

theorem firstFailure_of_checks (hlen : Config.minFrameSize ≤ f.length)
    (hhead : byteAt f 0 = Config.header) (htail : byteAt f (f.length - 1) = Config.tail)
    (hsum : xorFold (f.take (f.length - 2)) = byteAt f (f.length - 2)) :
    firstFailure f = none := by
  simp [firstFailure, hlen.not_gt, hhead, htail, hsum]

end

/-! ## The four checks together -/

/-- The first check to fail refutes its own conjunct on the right, so each case is one equation. -/
theorem firstFailure_eq_none_iff (f : List Byte) :
    firstFailure f = none ↔
      Config.minFrameSize ≤ f.length ∧ byteAt f 0 = Config.header ∧
      byteAt f (f.length - 1) = Config.tail ∧
      xorFold (f.take (f.length - 2)) = byteAt f (f.length - 2) := by
  rcases lt_or_ge f.length Config.minFrameSize with hshort | hlen
  · simp [firstFailure_of_too_short hshort, hshort.not_ge]
  by_cases hhead : byteAt f 0 = Config.header
  case neg => simp [firstFailure_of_bad_header hlen hhead, hhead]
  by_cases htail : byteAt f (f.length - 1) = Config.tail
  case neg => simp [firstFailure_of_bad_tail hlen hhead htail, htail]
  by_cases hsum : xorFold (f.take (f.length - 2)) = byteAt f (f.length - 2)
  case neg => simp [firstFailure_of_bad_checksum hlen hhead htail hsum, hsum]
  simp [firstFailure_of_checks hlen hhead htail hsum, hlen, hhead, htail, hsum]

theorem validate_iff_firstFailure_eq_none (f : List Byte) :
    validate f = true ↔ firstFailure f = none :=
  Option.isNone_iff_eq_none

/-! ## The statement -/

/-- Settles O3: the four conditions are those of `firstFailure_eq_none_iff`, with `HEADER`, `TAIL` and
`MIN_FRAME_SIZE` written as numbers. -/
theorem validateFourChecks : Obligations.ValidateFourChecks := fun f =>
  (validate_iff_firstFailure_eq_none f).trans (firstFailure_eq_none_iff f)

end Sys2Proof.Proofs.FrameValidator

/-! The command dispatcher (42_command_dispatcher): `build_frame` (R148) field by field, read with the
frame rules of R130 and R143, and the `Validate` row of R163 with its two outcomes (R142). -/

namespace Sys2Proof.Proofs.CommandDispatcher
open Sys2Proof Sys2Proof.Machine Sys2Proof.Laws Sys2Proof.Proofs.FrameValidator

/-! ## The fields of a built frame (R80, R148) -/

theorem buildFrame_eq (code : Byte) (payload : List Byte) :
    buildFrame code payload = [Config.header, code] ++ payload ++
      [xorFold ([Config.header, code] ++ payload), Config.tail] := rfl

@[simp] theorem byteAt_buildFrame_header (code : Byte) (payload : List Byte) :
    byteAt (buildFrame code payload) 0 = Config.header := rfl

@[simp] theorem frameCode_buildFrame (code : Byte) (payload : List Byte) :
    frameCode (buildFrame code payload) = code := rfl

/-- The payload stands between the two header bytes and the two trailer bytes, and only its length says
where it ends: it may hold any byte, TAIL too. -/
@[simp] theorem framePayload_buildFrame (code : Byte) (payload : List Byte) :
    framePayload (buildFrame code payload) = payload := by
  have hlen : (buildFrame code payload).length - 4 = payload.length := by simp
  rw [framePayload, hlen, buildFrame_eq]
  simp

/-- What the checksum of R134 covers: the frame without its last two bytes. -/
theorem take_buildFrame (code : Byte) (payload : List Byte) :
    (buildFrame code payload).take ((buildFrame code payload).length - 2) =
      [Config.header, code] ++ payload := by
  have hlen : (buildFrame code payload).length - 2 = ([Config.header, code] ++ payload).length := by simp
  rw [hlen, buildFrame_eq, List.take_left]

theorem byteAt_append_length_add (s t : List Byte) (i : Nat) :
    byteAt (s ++ t) (s.length + i) = byteAt t i := by
  rw [byteAt, List.getD_append_right _ _ _ _ (Nat.le_add_right _ _), Nat.add_sub_cancel_left, byteAt]

theorem byteAt_buildFrame_checksum (code : Byte) (payload : List Byte) :
    byteAt (buildFrame code payload) ((buildFrame code payload).length - 2) =
      xorFold ([Config.header, code] ++ payload) := by
  have hlen : (buildFrame code payload).length - 2 =
      ([Config.header, code] ++ payload).length + 0 := by simp
  rw [hlen, buildFrame_eq, byteAt_append_length_add]
  rfl

theorem byteAt_buildFrame_tail (code : Byte) (payload : List Byte) :
    byteAt (buildFrame code payload) ((buildFrame code payload).length - 1) = Config.tail := by
  have hlen : (buildFrame code payload).length - 1 =
      ([Config.header, code] ++ payload).length + 1 := by simp
  rw [hlen, buildFrame_eq, byteAt_append_length_add]
  rfl

/-- The four checks V1 to V4 of R130, one fact about the built frame for each. -/
theorem validate_buildFrame (code : Byte) (payload : List Byte) :
    validate (buildFrame code payload) = true := by
  have hlen : Config.minFrameSize ≤ (buildFrame code payload).length := by
    simp [Config.minFrameSize]
  have hsum : xorFold ((buildFrame code payload).take ((buildFrame code payload).length - 2)) =
      byteAt (buildFrame code payload) ((buildFrame code payload).length - 2) := by
    rw [take_buildFrame, byteAt_buildFrame_checksum]
  exact (validate_iff_firstFailure_eq_none _).2 (firstFailure_of_checks hlen
    (byteAt_buildFrame_header code payload) (byteAt_buildFrame_tail code payload) hsum)

/-! ## One step of the machine, by what is fetched -/

theorem step_of_fetch_run {s : State} {i : Instr} (h : fetch s = .run i) :
    step s = exec i (prepare s) := by
  simp [step, h]

theorem step_of_fetch_advance {s : State} (h : fetch s = .advance) : step s = .next (turn s) := by
  simp [step, h]

theorem fetch_of_no_schedule {s : State} (h : s.schedule = []) : fetch s = fetchDispatcher s := by
  simp [fetch, h]

/-- Only `Decode` latches registers before its instruction (R143, R163), and an empty schedule gives no
turn to take. -/
theorem prepare_of_no_schedule {s : State} (h : s.schedule = []) (hd : s.dispState ≠ .decode) :
    prepare s = s := by
  rw [prepare, if_neg hd]
  cases s
  cases h
  rfl

theorem exec_checksum (s : State) : exec .checksum s = .next (dropFrame s) := rfl

/-! ## The row `Validate` (R142, R163) -/

section
variable {s : State} (hset : s.settling = false) (hc : s.cycle = none) (hd : s.dispState = .validate)
include hset hc hd

theorem dispatcherTurn_of_valid (hv : validate (slotFrame s) = true) :
    dispatcherTurn s = { s with dispState := .decode } := by
  simp [dispatcherTurn, hset, hc, hd, hv]

theorem dispatcherTurn_of_invalid (hv : validate (slotFrame s) = false) :
    dispatcherTurn s = dropFrame s := by
  simp [dispatcherTurn, hset, hc, hd, hv]

theorem fetchDispatcher_of_bad_checksum (hf : firstFailure (slotFrame s) = some .badChecksum) :
    fetchDispatcher s = .run .checksum := by
  simp [fetchDispatcher, hset, hc, hd, hf]

theorem fetchDispatcher_of_not_bad_checksum (hf : firstFailure (slotFrame s) ≠ some .badChecksum) :
    fetchDispatcher s = .advance := by
  simp [fetchDispatcher, hset, hc, hd, hf]

theorem step_of_valid (hs : s.schedule = []) (hv : validate (slotFrame s) = true) :
    step s = .next { s with dispState := .decode } := by
  have hf : firstFailure (slotFrame s) ≠ some .badChecksum := by
    simp [(validate_iff_firstFailure_eq_none _).1 hv]
  have hfetch : fetch s = .advance :=
    (fetch_of_no_schedule hs).trans (fetchDispatcher_of_not_bad_checksum hset hc hd hf)
  rw [step_of_fetch_advance hfetch, turn_of_no_schedule hs, dispatcherTurn_of_valid hset hc hd hv]

/-- A wrong checksum is dropped by the instruction Checksum (R226), every other failure by the
dispatcher's own turn (R221): the same drop. -/
theorem step_of_invalid (hs : s.schedule = []) (hv : validate (slotFrame s) = false) :
    step s = .next (dropFrame s) := by
  by_cases hf : firstFailure (slotFrame s) = some .badChecksum
  case pos =>
    have hfetch : fetch s = .run .checksum :=
      (fetch_of_no_schedule hs).trans (fetchDispatcher_of_bad_checksum hset hc hd hf)
    rw [step_of_fetch_run hfetch, prepare_of_no_schedule hs (by simp [hd]), exec_checksum]
  case neg =>
    have hfetch : fetch s = .advance :=
      (fetch_of_no_schedule hs).trans (fetchDispatcher_of_not_bad_checksum hset hc hd hf)
    rw [step_of_fetch_advance hfetch, turn_of_no_schedule hs, dispatcherTurn_of_invalid hset hc hd hv]

end

/-! ## The statements -/

/-- Settles O4: the layout is that of the definition, and the other parts are read off it. -/
theorem buildFrameLayout : Obligations.BuildFrameLayout := by
  intro code payload _
  refine ⟨buildFrame_eq code payload, ?length, validate_buildFrame code payload,
    frameCode_buildFrame code payload, framePayload_buildFrame code payload⟩
  case length => rw [buildFrame_length, Nat.add_comm]

/-- Settles O38: the two steps out of `Validate`. -/
theorem validationGate : Obligations.ValidationGate := fun _ hs hc hset hd =>
  ⟨step_of_valid hset hc hd hs, step_of_invalid hset hc hd hs⟩

end Sys2Proof.Proofs.CommandDispatcher

/-! The profile regions (44_profile_store R200, R203): byte `i` of profile `p` stands at
`0x100 + 64 * p + i`, and none of the 16-bit sums on the way there wraps. As the stride is the size, the
offset determines `p` and `i`, its quotient and remainder by 64. -/

namespace Sys2Proof.Proofs.ProfileStore
open Sys2Proof Sys2Proof.Machine Sys2Proof.Laws

theorem profileAddress_toNat {id : Byte} (hid : id.toNat < 4) :
    (profileAddress id).toNat = 0x100 + 64 * id.toNat := by
  rw [profileAddress_eq, BitVec.toNat_ofNat]
  omega

theorem profileByte_toNat {id : Byte} {i : Nat} (hid : id.toNat < 4) (hi : i < 64) :
    (blockAddr (profileAddress id) i).toNat = 0x100 + 64 * id.toNat + i := by
  rw [blockAddr_toNat, profileAddress_toNat hid]
  omega

theorem profileByte_injective {p q : Byte} {i j : Nat} (hp : p.toNat < 4) (hq : q.toNat < 4)
    (hi : i < 64) (hj : j < 64)
    (h : blockAddr (profileAddress p) i = blockAddr (profileAddress q) j) : p = q ∧ i = j := by
  have hsum : 0x100 + 64 * p.toNat + i = 0x100 + 64 * q.toNat + j := by
    rw [← profileByte_toNat hp hi, ← profileByte_toNat hq hj, h]
  have hpq : p.toNat = q.toNat := by omega
  exact ⟨BitVec.eq_of_toNat_eq hpq, by omega⟩

theorem profileByte_mem_range {p : Byte} {i : Nat} (hp : p.toNat < 4) (hi : i < 64) :
    0x100 ≤ (blockAddr (profileAddress p) i).toNat ∧
      (blockAddr (profileAddress p) i).toNat ≤ 0x1FF := by
  rw [profileByte_toNat hp hi]
  omega

/-- The profile is the quotient by 64 of the offset above `PROFILE_BASE_ADDR`, the byte its remainder. -/
theorem exists_profileByte_eq {a : Half} (hlo : 0x100 ≤ a.toNat) (hhi : a.toNat ≤ 0x1FF) :
    ∃ (p : Byte) (i : Nat), p.toNat < 4 ∧ i < 64 ∧ a = blockAddr (profileAddress p) i := by
  have hquot : (BitVec.ofNat 8 ((a.toNat - 0x100) / 64)).toNat = (a.toNat - 0x100) / 64 := by
    rw [BitVec.toNat_ofNat]
    omega
  have hp : (BitVec.ofNat 8 ((a.toNat - 0x100) / 64)).toNat < 4 := by omega
  have hi : (a.toNat - 0x100) % 64 < 64 := by omega
  refine ⟨_, _, hp, hi, BitVec.eq_of_toNat_eq ?_⟩
  rw [profileByte_toNat hp hi]
  omega

/-- Settles O58: the four addresses are evaluated, the rest is about `64 * profile + index`. -/
theorem profileRegions : Obligations.ProfileRegions :=
  ⟨by decide, fun _ => profileAddress_toNat, fun _ _ _ _ => profileByte_injective,
    fun _ _ => profileByte_mem_range, fun _ => exists_profileByte_eq⟩

end Sys2Proof.Proofs.ProfileStore

/-! The reset state (70_reset_and_hazards R250). -/

namespace Sys2Proof.Proofs.Reset

/-- Settles O45: the eight values of R250 are fields of the record `State.reset`, read off in R250's
order. -/
theorem resetValues : Obligations.ResetValues :=
  ⟨rfl, rfl, rfl, rfl, rfl, rfl, rfl, rfl⟩

end Sys2Proof.Proofs.Reset

/-! The decoder on the encoder's words (30_encoding, 42_command_dispatcher section 2): the 16-bit fields
are read back, one equation of each decoder for each code, and a built frame is decoded by its code and
its payload. -/

namespace Sys2Proof.Proofs.Encoding
open Sys2Proof Sys2Proof.Machine Sys2Proof.Laws Sys2Proof.Proofs.FrameValidator
  Sys2Proof.Proofs.CommandDispatcher

/-! ## Fields (R17, R53, R89) -/

theorem be16_hi8_lo8 (a : Half) : be16 (hi8 a) (lo8 a) = a := by
  simp only [be16, hi8, lo8]
  ext i hi
  grind

@[simp] theorem halfBytes_length (a : Half) : (halfBytes a).length = 2 := rfl

@[simp] theorem halfAt_halfBytes (a : Half) : halfAt (halfBytes a) 0 = a := be16_hi8_lo8 a

/-- Whatever follows the two bytes of a field. -/
@[simp] theorem halfAt_halfBytes_append (a : Half) (rest : List Byte) :
    halfAt (halfBytes a ++ rest) 0 = a := be16_hi8_lo8 a

@[simp] theorem halfAt_two_halfBytes_halfBytes (a n : Half) :
    halfAt (halfBytes a ++ halfBytes n) 2 = n := be16_hi8_lo8 n

@[simp] theorem halfAt_one_cons_halfBytes (b : Byte) (a : Half) :
    halfAt (b :: halfBytes a) 1 = a := be16_hi8_lo8 a

@[simp] theorem halfAt_one_cons_halfBytes_append (b : Byte) (a : Half) (rest : List Byte) :
    halfAt (b :: (halfBytes a ++ rest)) 1 = a := be16_hi8_lo8 a

@[simp] theorem byteAt_two_halfBytes_append (a : Half) (d : Byte) (rest : List Byte) :
    byteAt (halfBytes a ++ d :: rest) 2 = d := rfl

/-- The payload of WriteAll and Verify: an address, the number of bytes, and the bytes (R89). -/
def blockPayload (a : Half) (data : List Byte) : List Byte :=
  halfBytes a ++ halfBytes (BitVec.ofNat 16 data.length) ++ data

@[simp] theorem addrField_blockPayload (a : Half) (data : List Byte) :
    addrField (blockPayload a data) = a := be16_hi8_lo8 a

@[simp] theorem sizeField_blockPayload (a : Half) (data : List Byte) :
    sizeField (blockPayload a data) = BitVec.ofNat 16 data.length := be16_hi8_lo8 _

@[simp] theorem drop_four_blockPayload (a : Half) (data : List Byte) :
    (blockPayload a data).drop 4 = data := rfl

theorem blockPayload_length (a : Half) (data : List Byte) :
    (blockPayload a data).length = data.length + 4 := by
  simp [blockPayload]; omega

theorem blockPayload_length_le (a : Half) {data : List Byte}
    (hlen : data.length ≤ Config.maxTransfer) : (blockPayload a data).length ≤ Config.maxPayload := by
  rw [blockPayload_length]
  exact Nat.add_le_add_right hlen 4

/-- A block that a frame can carry has a `size` field of 16 bits (R145). -/
theorem blockLengthOk_blockPayload (a : Half) {data : List Byte}
    (hlen : data.length ≤ Config.maxTransfer) : blockLengthOk (blockPayload a data) = true := by
  simp only [Config.maxTransfer] at hlen
  simp [blockLengthOk, blockPayload_length]
  omega

/-! ## Command decode, code by code (R144, R145) -/

section
variable (p : List Byte)

theorem decodeCommand_readByte : decodeCommand Config.codeReadByte p =
    if p.length = 2 then .instr (.readByte (addrField p)) else .reject .payloadLength := rfl

theorem decodeCommand_writeByte : decodeCommand Config.codeWriteByte p =
    if p.length = 3 then .instr (.writeByte (addrField p) (byteAt p 2))
    else .reject .payloadLength := rfl

theorem decodeCommand_readAll : decodeCommand Config.codeReadAll p =
    if p.length = 4 then .instr (.readAll (addrField p) (sizeField p))
    else .reject .payloadLength := rfl

theorem decodeCommand_writeAll : decodeCommand Config.codeWriteAll p =
    if blockLengthOk p then .instr (.writeAll (addrField p) (p.drop 4))
    else .reject .payloadLength := rfl

theorem decodeCommand_clear : decodeCommand Config.codeClear p =
    if p.length = 2 then .instr (.clear (clearSizeField p)) else .reject .payloadLength := rfl

theorem decodeCommand_verify : decodeCommand Config.codeVerify p =
    if blockLengthOk p then .instr (.verify (addrField p) (p.drop 4))
    else .reject .payloadLength := rfl

theorem decodeCommand_saveProfile : decodeCommand Config.codeSaveProfile p =
    if p.length = 65 then .instr (.saveProfile (idField p) (p.drop 1))
    else .reject .payloadLength := rfl

theorem decodeCommand_loadProfile : decodeCommand Config.codeLoadProfile p =
    if p.length = 1 then .instr (.loadProfile (idField p)) else .reject .payloadLength := rfl

/-- The eight command codes are those from 0x01 to 0x08 (R86, R95). -/
theorem decodeCommand_unknown {code : Byte} (hcode : isCommandCode code = false) :
    decodeCommand code p = .instr (.unknown code p) := by
  have hne (c : Byte) (hc : isCommandCode c = true) : code ≠ c := by
    rintro rfl
    simp [hcode] at hc
  simp only [decodeCommand, hne Config.codeReadByte rfl, hne Config.codeWriteByte rfl,
    hne Config.codeReadAll rfl, hne Config.codeWriteAll rfl, hne Config.codeClear rfl,
    hne Config.codeVerify rfl, hne Config.codeSaveProfile rfl, hne Config.codeLoadProfile rfl, if_false]

/-! ## Response decode, code by code (R87, R91) -/

theorem decodeResponse_ack : decodeResponse Config.codeAck p =
    if p.length = 0 then .instr .ack else .reject .payloadLength := rfl

theorem decodeResponse_nack : decodeResponse Config.codeNack p =
    if p.length = 1 then .instr (.nack (byteAt p 0)) else .reject .payloadLength := rfl

theorem decodeResponse_readByteResult : decodeResponse Config.codeReadByteResult p =
    if p.length = 1 then .instr (.readByteResult (byteAt p 0)) else .reject .payloadLength := rfl

theorem decodeResponse_readAllResult : decodeResponse Config.codeReadAllResult p =
    if p.length ≤ Config.readClamp then .instr (.readAllResult p) else .reject .payloadLength := rfl

theorem decodeResponse_verifyOk : decodeResponse Config.codeVerifyOk p =
    if p.length = 0 then .instr .verifyOk else .reject .payloadLength := rfl

theorem decodeResponse_verifyFail : decodeResponse Config.codeVerifyFail p =
    if p.length = 0 then .instr .verifyFail else .reject .payloadLength := rfl

theorem decodeResponse_error : decodeResponse Config.codeError p =
    if p.length ≤ Config.maxPayload then .instr (.error p) else .reject .payloadLength := rfl

end

/-! ## Frames and bus cycles (R81, R93, R131) -/

/-- A built frame passes V1 to V4, so what it is depends on its code and payload alone. -/
theorem decodeFrame_buildFrame (how : Byte → List Byte → Decoded) (code : Byte) {payload : List Byte}
    (hlen : payload.length ≤ Config.maxPayload) :
    decodeFrame how (buildFrame code payload) = how code payload := by
  have hvalid : firstFailure (buildFrame code payload) = none :=
    (validate_iff_firstFailure_eq_none _).1 (validate_buildFrame code payload)
  have hsize : (buildFrame code payload).length ≤ Config.maxFrameSize := by
    simpa [Config.maxFrameSize, Config.maxPayload] using hlen
  simp only [decodeFrame, hvalid, if_pos hsize, frameCode_buildFrame, framePayload_buildFrame]

theorem decode_request_buildFrame (code : Byte) {payload : List Byte}
    (hlen : payload.length ≤ Config.maxPayload) :
    decode (.request (buildFrame code payload)) = decodeCommand code payload :=
  decodeFrame_buildFrame decodeCommand code hlen

theorem decode_response_buildFrame (code : Byte) {payload : List Byte}
    (hlen : payload.length ≤ Config.maxPayload) :
    decode (.response (buildFrame code payload)) = decodeResponse code payload :=
  decodeFrame_buildFrame decodeResponse code hlen

theorem decodeBusCycle_read (a : Half) {n : Nat} (hlo : 1 ≤ n) (hhi : n ≤ Config.maxTransfer) :
    decodeBusCycle (Config.busOpRead :: halfBytes a) n = .instr (.busRead a n) := by
  have hcode : byteAt (Config.busOpRead :: halfBytes a) 0 = Config.busOpRead := rfl
  simp [decodeBusCycle, hcode, hlo, hhi]

theorem decodeBusCycle_write (a : Half) (d : Byte) :
    decodeBusCycle (Config.busOpWrite :: halfBytes a ++ [d]) 0 = .instr (.busWrite a d) := by
  have hcode : byteAt (Config.busOpWrite :: (halfBytes a ++ [d])) 0 = Config.busOpWrite := rfl
  have hdata : byteAt (Config.busOpWrite :: (halfBytes a ++ [d])) 3 = d := rfl
  have hne : Config.busOpWrite ≠ Config.busOpRead := by decide
  simp [decodeBusCycle, hcode, hdata, hne]

/-! ## The statements -/

/-- Settles O1: the decoder's equation for the row's code, on the fields the encoder wrote. -/
theorem decodeEncode : Obligations.DecodeEncode := by
  intro i hwf
  cases i with
  | readByte a =>
    rw [encode, decode_request_buildFrame _ (by simp [Config.maxPayload]), decodeCommand_readByte]
    simp [addrField]
  | writeByte a d =>
    rw [encode, decode_request_buildFrame _ (by simp [Config.maxPayload]), decodeCommand_writeByte]
    simp [addrField]
  | readAll a n =>
    rw [encode, decode_request_buildFrame _ (by simp [Config.maxPayload]), decodeCommand_readAll]
    simp [addrField, sizeField]
  | writeAll a data =>
    have hlen : data.length ≤ Config.maxTransfer := of_decide_eq_true hwf
    rw [encode, ← blockPayload, decode_request_buildFrame _ (blockPayload_length_le a hlen),
      decodeCommand_writeAll, if_pos (blockLengthOk_blockPayload a hlen)]
    simp
  | clear n =>
    rw [encode, decode_request_buildFrame _ (by simp [Config.maxPayload]), decodeCommand_clear]
    simp [clearSizeField]
  | verify a expected =>
    have hlen : expected.length ≤ Config.maxTransfer := of_decide_eq_true hwf
    rw [encode, ← blockPayload, decode_request_buildFrame _ (blockPayload_length_le a hlen),
      decodeCommand_verify, if_pos (blockLengthOk_blockPayload a hlen)]
    simp
  | saveProfile id data =>
    have hlen : data.length = 64 := of_decide_eq_true hwf
    rw [encode, decode_request_buildFrame _ (by simp [Config.maxPayload, hlen]),
      decodeCommand_saveProfile]
    simp [hlen, idField, byteAt]
  | loadProfile id =>
    rw [encode, decode_request_buildFrame _ (by simp [Config.maxPayload]), decodeCommand_loadProfile]
    rfl
  | unknown code payload =>
    simp only [Instr.wellFormed, Bool.and_eq_true, Bool.not_eq_true', decide_eq_true_eq] at hwf
    obtain ⟨hcode, hlen⟩ := hwf
    rw [encode, decode_request_buildFrame _ hlen, decodeCommand_unknown _ hcode]
  | ack => rw [encode, decode_response_buildFrame _ (by simp), decodeResponse_ack]; rfl
  | nack err =>
    rw [encode, decode_response_buildFrame _ (by simp [Config.maxPayload]), decodeResponse_nack]; rfl
  | readByteResult d =>
    rw [encode, decode_response_buildFrame _ (by simp [Config.maxPayload]),
      decodeResponse_readByteResult]
    rfl
  | readAllResult data =>
    have hlen : data.length ≤ Config.readClamp := of_decide_eq_true hwf
    rw [encode, decode_response_buildFrame _ (hlen.trans (by decide)), decodeResponse_readAllResult,
      if_pos hlen]
  | verifyOk => rw [encode, decode_response_buildFrame _ (by simp), decodeResponse_verifyOk]; rfl
  | verifyFail => rw [encode, decode_response_buildFrame _ (by simp), decodeResponse_verifyFail]; rfl
  | error payload =>
    have hlen : payload.length ≤ Config.maxPayload := of_decide_eq_true hwf
    rw [encode, decode_response_buildFrame _ hlen, decodeResponse_error, if_pos hlen]
  | invalidCommand => rfl
  | timeout => rfl
  | checksum => rfl
  | busFailure => rfl
  | busRead a n =>
    simp only [Instr.wellFormed, Bool.and_eq_true, decide_eq_true_eq] at hwf
    obtain ⟨hlo, hhi⟩ := hwf
    exact decodeBusCycle_read a hlo hhi
  | busWrite a d => exact decodeBusCycle_write a d

/-- Settles O2: the eight words are evaluated. -/
theorem wordsDecode : Obligations.WordsDecode := by
  unfold Obligations.WordsDecode
  decide

end Sys2Proof.Proofs.Encoding

/-! The checksum of 41_frame_validator R134 and R135: an `xor_fold` changes with any one of its bytes. -/

namespace Sys2Proof.Proofs.Checksum
open Sys2Proof Sys2Proof.Machine Sys2Proof.Proofs.FrameValidator

theorem foldl_xor_start (s : List Byte) (x : Byte) :
    s.foldl (fun a b => a ^^^ b) x = x ^^^ xorFold s := by
  induction s generalizing x with
  | nil => simp [xorFold]
  | cons b s ih =>
    rw [xorFold, List.foldl_cons, List.foldl_cons, ih, ih (0 ^^^ b), BitVec.xor_assoc]
    simp

theorem xorFold_cons (b : Byte) (s : List Byte) : xorFold (b :: s) = b ^^^ xorFold s := by
  rw [xorFold, List.foldl_cons, foldl_xor_start]
  simp

theorem xorFold_set_ne {s : List Byte} {i : Nat} (hi : i < s.length) {v : Byte}
    (hv : v ≠ byteAt s i) : xorFold (s.set i v) ≠ xorFold s := by
  induction s generalizing i with
  | nil => simp at hi
  | cons b s ih =>
    cases i with
    | zero => simpa [xorFold_cons, byteAt] using hv
    | succ i => simpa [xorFold_cons] using ih (by simpa using hi) hv

theorem byteAt_set_same {s : List Byte} {i : Nat} (hi : i < s.length) (v : Byte) :
    byteAt (s.set i v) i = v := by
  simp [byteAt, hi]

theorem byteAt_set_other (s : List Byte) {i j : Nat} (hij : i ≠ j) (v : Byte) :
    byteAt (s.set i v) j = byteAt s j := by
  simp [byteAt, hij]

theorem byteAt_take (s : List Byte) {i n : Nat} (hi : i < n) : byteAt (s.take n) i = byteAt s i := by
  simp only [byteAt, List.getD_eq_getElem?_getD, List.getElem?_take_of_lt hi]

/-- Settles O5: the header and the tail are fixed bytes; a change of the checksum byte leaves the sum of
the bytes before it, and a change before it changes that sum but not the checksum byte. -/
theorem oneByteChangeRejected : Obligations.OneByteChangeRejected := by
  intro f i v hvalid hi hv
  rw [validate_iff_firstFailure_eq_none, firstFailure_eq_none_iff] at hvalid
  obtain ⟨hlen, hhead, htail, hsum⟩ := hvalid
  simp only [Config.minFrameSize] at hlen
  rw [← Bool.not_eq_true, validate_iff_firstFailure_eq_none, firstFailure_eq_none_iff, List.length_set,
    List.take_set]
  rintro ⟨-, -, htail', hsum'⟩
  rcases lt_trichotomy i (f.length - 2) with hbefore | rfl | hafter
  · have hchanged : xorFold ((f.take (f.length - 2)).set i v) ≠ xorFold (f.take (f.length - 2)) :=
      xorFold_set_ne (by simp; omega) (by rwa [byteAt_take f hbefore])
    rw [byteAt_set_other f hbefore.ne, ← hsum] at hsum'
    exact hchanged hsum'
  · rw [List.set_eq_of_length_le (by simp), byteAt_set_same hi, hsum] at hsum'
    exact hv hsum'.symm
  · obtain rfl : i = f.length - 1 := by omega
    rw [byteAt_set_same hi] at htail'
    exact hv (htail'.trans htail.symm)

end Sys2Proof.Proofs.Checksum

/-! The received byte (40_frame_assembler R110 to R119): everything `push_byte` can do, and the frame that
a run of received bytes leaves in the slot. -/

namespace Sys2Proof.Proofs.Reception
open Sys2Proof Sys2Proof.Machine Sys2Proof.Laws Sys2Proof.Safety Sys2Proof.Proofs.FrameAssembler
  Sys2Proof.Proofs.Checksum

/-! ## One received byte -/

/-- What a received byte `b` can lead to from `s`, each case with its guard. -/
inductive PushTo (b : Byte) (s : State) : State → Prop where
  | skip (hw : s.asmState = .waitingForHeader) : PushTo b s s
  | start (hw : s.asmState = .waitingForHeader) (hb : b = Config.header) :
      PushTo b s { s with asmBuf := bufSet s.asmBuf 0 Config.header, asmLen := 1,
                          asmState := .collecting }
  | overflow (hc : s.asmState = .collecting) : PushTo b s (asmRestart s)
  | append (hc : s.asmState = .collecting) (hlen : s.asmLen < Config.maxFrameSize)
      (hmore : ¬(b = Config.tail ∧ Config.minFrameSize ≤ s.asmLen + 1)) : PushTo b s (asmAppend b s)
  | completeFree (hc : s.asmState = .collecting) (hlen : s.asmLen < Config.maxFrameSize)
      (hmin : Config.minFrameSize ≤ s.asmLen + 1) (hfree : s.frameReady = false) :
      PushTo b s { s with
        asmBuf := bufSet s.asmBuf s.asmLen Config.tail, asmLen := 0, asmState := .waitingForHeader,
        frameBuf := bufOverwrite s.frameBuf
          (bufPrefix (bufSet s.asmBuf s.asmLen Config.tail) (s.asmLen + 1)),
        frameLen := s.asmLen + 1, frameReady := true }
  | completeOccupied (hc : s.asmState = .collecting) (hocc : s.frameReady = true) :
      PushTo b s { s with
        asmBuf := bufSet s.asmBuf s.asmLen Config.tail, asmLen := 0, asmState := .waitingForHeader }

theorem pushByte_cases (b : Byte) (s : State) : PushTo b s (pushByte b s) := by
  cases hst : s.asmState with
  | waitingForHeader =>
    by_cases hb : b = Config.header
    · subst hb
      rw [pushByte_start hst]
      exact .start hst rfl
    · rw [pushByte_skip hst hb]
      exact .skip hst
  | collecting =>
    rcases Nat.lt_or_ge s.asmLen Config.maxFrameSize with hlen | hlen
    · by_cases hend : b = Config.tail ∧ Config.minFrameSize ≤ s.asmLen + 1
      · obtain ⟨rfl, hmin⟩ := hend
        cases hr : s.frameReady with
        | false =>
          rw [pushByte_complete_free hst hlen hmin hr]
          exact .completeFree hst hlen hmin hr
        | true =>
          rw [pushByte_complete_occupied hst hlen hmin hr]
          exact .completeOccupied hst hr
      · rw [pushByte_append hst hlen hend]
        exact .append hst hlen hend
    · rw [pushByte_overflow hst hlen]
      exact .overflow hst

theorem PushTo.frame {b : Byte} {s t : State} (h : PushTo b s t) :
    ∃ st n buf fr fl fb, t = { s with
      asmState := st, asmLen := n, asmBuf := buf, frameReady := fr, frameLen := fl, frameBuf := fb } := by
  cases h <;> exact ⟨_, _, _, _, _, _, rfl⟩

/-- Only a completed frame writes the slot, and only a free one (R117, R118). -/
theorem PushTo.frame_of_slot_occupied {b : Byte} {s t : State} (h : PushTo b s t)
    (hocc : s.frameReady = true) :
    ∃ st n buf, t = { s with asmState := st, asmLen := n, asmBuf := buf } := by
  cases h with
  | completeFree _ _ _ hfree => simp [hocc] at hfree
  | _ => exact ⟨_, _, _, rfl⟩

/-- Settles O9: in every case only the fields of the assembler and the slot are written, and those of the
slot only when it is free. -/
theorem rxFrame : Obligations.RxFrame := fun b s =>
  ⟨(pushByte_cases b s).frame, (pushByte_cases b s).frame_of_slot_occupied⟩

/-! ## A run of received bytes -/

theorem receive_append (bs cs : List Byte) (s : State) :
    receive (bs ++ cs) s = receive cs (receive bs s) := by
  simp [receive]

theorem receive_singleton (b : Byte) (s : State) : receive [b] s = pushByte b s := rfl

/-- While the slot is occupied nothing received touches it (R118). -/
theorem receive_of_slot_occupied (bs : List Byte) {s : State} (hocc : s.frameReady = true) :
    (receive bs s).frameReady = true ∧ slotFrame (receive bs s) = slotFrame s := by
  induction bs generalizing s with
  | nil => exact ⟨hocc, rfl⟩
  | cons b bs ih =>
    obtain ⟨st, n, buf, hpush⟩ := (rxFrame b s).2 hocc
    have hnext := ih (s := pushByte b s) (by rw [hpush]; exact hocc)
    rw [hpush] at hnext
    rw [show receive (b :: bs) s = receive bs (pushByte b s) from rfl, hpush]
    exact hnext

/-- `g` has been received from the first byte of a frame on, and has not ended it. -/
def collected (g : List Byte) (s : State) : State :=
  { s with asmState := .collecting, asmLen := g.length, asmBuf := bufOverwrite s.asmBuf g }

theorem collected_singleton (s : State) : collected [Config.header] s =
    { s with asmBuf := bufSet s.asmBuf 0 Config.header, asmLen := 1, asmState := .collecting } := by
  have hbuf := bufSet_overwrite s.asmBuf [] Config.header (by simp)
  rw [bufOverwrite_nil, List.nil_append] at hbuf
  rw [collected, ← hbuf]
  rfl

/-- C-append on what has been collected. -/
theorem pushByte_collected {g : List Byte} {b : Byte} (s : State) (hlen : g.length < 256)
    (hmore : 3 ≤ g.length → b ≠ Config.tail) :
    pushByte b (collected g s) = collected (g ++ [b]) s := by
  have hb : ¬(b = Config.tail ∧ Config.minFrameSize ≤ (collected g s).asmLen + 1) := by
    rintro ⟨hb, hmin⟩
    exact hmore (Nat.le_of_succ_le_succ hmin) hb
  rw [pushByte_append rfl hlen hb]
  simp [asmAppend, collected, bufSet_overwrite _ _ _ hlen]

/-- Bytes with HEADER first and no TAIL from offset 3 on are all collected (R112, R115). -/
theorem receive_collects {s : State} (hw : s.asmState = .waitingForHeader) (g : List Byte)
    (hlen : (Config.header :: g).length ≤ 256)
    (hinner : ∀ i, 3 ≤ i → i < (Config.header :: g).length →
      byteAt (Config.header :: g) i ≠ Config.tail) :
    receive (Config.header :: g) s = collected (Config.header :: g) s := by
  induction g using List.reverseRecOn with
  | nil => rw [receive_singleton, pushByte_start hw, collected_singleton]
  | append_singleton g b ih =>
    have hlast : byteAt (Config.header :: (g ++ [b])) (Config.header :: g).length = b := by
      simp [byteAt]
    have hcollected : receive (Config.header :: g) s = collected (Config.header :: g) s := by
      refine ih (le_trans (by simp) hlen) fun i hlo hhi => ?_
      have hmem := hinner i hlo (hhi.trans (by simp))
      rwa [← List.cons_append, byteAt, List.getD_append _ _ _ _ hhi] at hmem
    rw [← List.cons_append, receive_append, hcollected, receive_singleton,
      pushByte_collected s (by simpa using hlen)]
    · intro hlo
      exact hlast ▸ hinner _ hlo (by simp)

/-- A TAIL as the fourth byte or later hands off all that has been collected, itself included (R116,
R117). -/
theorem pushByte_tail_collected {s : State} (hfree : s.frameReady = false) {g : List Byte}
    (hlo : 3 ≤ g.length) (hhi : g.length < 256) :
    pushByte Config.tail (collected g s) = { s with
      asmState := .waitingForHeader, asmLen := 0, asmBuf := bufOverwrite s.asmBuf (g ++ [Config.tail]),
      frameBuf := bufOverwrite s.frameBuf (g ++ [Config.tail]), frameLen := g.length + 1,
      frameReady := true } := by
  have hlen : (g ++ [Config.tail]).length = g.length + 1 := by simp
  have hcopied : bufPrefix (bufOverwrite s.asmBuf (g ++ [Config.tail])) (g.length + 1) =
      g ++ [Config.tail] := by
    rw [← hlen, bufPrefix_overwrite _ _ (hlen.trans_le hhi)]
  rw [pushByte_complete_free (s := collected g s) rfl hhi (Nat.succ_le_succ hlo) hfree]
  simp [collected, bufSet_overwrite _ _ _ hhi, hcopied]

/-- The bytes between the HEADER and the TAIL of a frame. -/
theorem exists_frame_body {f : List Byte} (hlen : 4 ≤ f.length) (hhead : byteAt f 0 = Config.header)
    (htail : byteAt f (f.length - 1) = Config.tail) :
    ∃ g, f = Config.header :: g ++ [Config.tail] := by
  obtain ⟨h, rest, rfl⟩ := List.exists_cons_of_length_pos (Nat.lt_of_lt_of_le (by decide) hlen)
  rcases List.eq_nil_or_concat rest with rfl | ⟨g, b, rfl⟩
  · simp at hlen
  · obtain rfl : h = Config.header := hhead
    obtain rfl : b = Config.tail := by simpa [byteAt] using htail
    exact ⟨g, by simp⟩

/-- A frame without a TAIL at an inner offset from 3 on goes into a free slot as it was received. -/
theorem receive_frame {f : List Byte} {s : State} (hlo : 4 ≤ f.length) (hhi : f.length ≤ 256)
    (hhead : byteAt f 0 = Config.header) (htail : byteAt f (f.length - 1) = Config.tail)
    (hinner : ∀ i, 3 ≤ i → i + 1 < f.length → byteAt f i ≠ Config.tail)
    (hw : s.asmState = .waitingForHeader) (hfree : s.frameReady = false) :
    receive f s = { s with
      asmBuf := bufOverwrite s.asmBuf f, asmLen := 0, asmState := .waitingForHeader,
      frameBuf := bufOverwrite s.frameBuf f, frameLen := f.length, frameReady := true } := by
  obtain ⟨g, rfl⟩ := exists_frame_body hlo hhead htail
  simp only [List.length_append, List.length_singleton] at hlo hhi hinner
  have hbody : receive (Config.header :: g) s = collected (Config.header :: g) s := by
    refine receive_collects hw g (by omega) fun i h3 hi => ?_
    have hne := hinner i h3 (by omega)
    rwa [byteAt, List.getD_append _ _ _ _ hi] at hne
  rw [receive_append, hbody, receive_singleton, pushByte_tail_collected hfree (by omega) (by omega)]
  simp

theorem slotFrame_of_overwrite {f : List Byte} {s t : State} (hhi : f.length ≤ 256)
    (hbuf : t.frameBuf = bufOverwrite s.frameBuf f) (hlen : t.frameLen = f.length) :
    slotFrame t = f := by
  rw [slotFrame, hbuf, hlen, bufPrefix_overwrite _ _ hhi]

/-- Settles O8: what is received up to the first TAIL from offset 3 on is a frame without an inner one,
and what is received after it finds the slot occupied. -/
theorem frameHandedOff : Obligations.FrameHandedOff := by
  intro f s hlo hhi hhead htail hw hfree
  constructor
  · intro hinner
    have hdone := receive_frame hlo hhi hhead htail hinner hw hfree
    refine ⟨slotFrame_of_overwrite (s := s) hhi ?_ ?_, ?_, ?_, ?_⟩ <;> rw [hdone]
  · intro i h3 hi hcut hfirst
    have hlen : (f.take (i + 1)).length = i + 1 := by simp; omega
    have hbyte (j : Nat) (hj : j < i + 1) : byteAt (f.take (i + 1)) j = byteAt f j :=
      byteAt_take f hj
    have hdone : receive (f.take (i + 1)) s = _ :=
      receive_frame (by omega) (by omega) ((hbyte 0 (by omega)).trans hhead)
        (by rw [hlen]; exact (hbyte i (by omega)).trans hcut)
        (fun j hj3 hj => by rw [hbyte j (by omega)]; exact hfirst j hj3 (by omega)) hw hfree
    have hslot : (receive (f.take (i + 1)) s).frameReady = true := by rw [hdone]
    have hrest := receive_of_slot_occupied (f.drop (i + 1)) hslot
    rw [← receive_append, List.take_append_drop] at hrest
    refine ⟨hrest.2.trans (slotFrame_of_overwrite (s := s) (by omega) ?_ ?_), hrest.1⟩ <;> rw [hdone]

/-! ## Received bytes and the dispatcher's turns (R231) -/

/-- `s` with the assembler's registers of `u`. -/
def withAsm (u s : State) : State :=
  { s with asmState := u.asmState, asmLen := u.asmLen, asmBuf := u.asmBuf }

/-- With the slot occupied, what a received byte does depends on the assembler's registers alone. -/
theorem pushByte_eq_withAsm {s t : State} (hs : s.frameReady = true) (ht : t.frameReady = true)
    (hst : t.asmState = s.asmState) (hlen : t.asmLen = s.asmLen) (hbuf : t.asmBuf = s.asmBuf)
    (b : Byte) : pushByte b t = withAsm (pushByte b s) t := by
  cases hstate : s.asmState with
  | waitingForHeader =>
    by_cases hb : b = Config.header
    · subst hb
      rw [pushByte_start hstate, pushByte_start (hst.trans hstate)]
      simp [withAsm, hbuf]
    · rw [pushByte_skip hstate hb, pushByte_skip (hst.trans hstate) hb]
      simp [withAsm, ← hst, ← hlen, ← hbuf]
  | collecting =>
    simp only [pushByte, hst.trans hstate, hstate, hlen, hbuf]
    split
    · simp [asmRestart, withAsm, hbuf]
    · split
      · simp [handOff, hs, ht, asmRestart, withAsm]
      · rfl

theorem inputByte_withAsm (u : State) (c : BusCycle) (a : Half) (k : Nat) (s : State) :
    inputByte c a k (withAsm u s) = withAsm u (inputByte c a k s) := by
  cases hst : c.status <;> simp only [inputByte, hst] <;> rfl

theorem finishCycle_withAsm (u : State) (c : BusCycle) (s : State) :
    finishCycle c (withAsm u s) = withAsm u (finishCycle c s) := by
  obtain ⟨op, p, st⟩ := c
  cases op <;> cases st <;> rfl

theorem cycleTurn_withAsm (u : State) (c : BusCycle) (s : State) :
    cycleTurn c (withAsm u s) = withAsm u (cycleTurn c s) := by
  simp only [cycleTurn, inputByte_withAsm, finishCycle_withAsm]
  split
  · rfl
  · split
    · exact (apply_ite (withAsm u) _ _ _).symm
    · rfl

theorem selectCycle_withAsm (u : State) (op : BusOp) (s : State) :
    selectCycle op (withAsm u s) = withAsm u (selectCycle op s) := by
  simp only [selectCycle, apply_ite (withAsm u)]
  rfl

theorem endPrimitive_withAsm (u s : State) :
    endPrimitive (withAsm u s) = withAsm u (endPrimitive s) := by
  have hrel : releaseBus (withAsm u s) = withAsm u (releaseBus s) := by
    simp only [releaseBus, apply_ite (withAsm u)]
    rfl
  rw [endPrimitive, hrel]
  rfl

/-- No turn of the dispatcher reads or writes a register of the assembler. -/
theorem dispatcherTurn_withAsm (u s : State) :
    dispatcherTurn (withAsm u s) = withAsm u (dispatcherTurn s) := by
  have hset : (withAsm u s).settling = s.settling := rfl
  have hc : (withAsm u s).cycle = s.cycle := rfl
  have hd : (withAsm u s).dispState = s.dispState := rfl
  have ho : nextOp (withAsm u s) = nextOp s := rfl
  unfold dispatcherTurn
  rw [hset]
  split
  case isTrue => rfl
  case isFalse =>
    rw [hc]
    split
    case h_1 c _ =>
      rw [cycleTurn_withAsm, apply_ite (withAsm u)]
      rfl
    case h_2 =>
      rw [hd, ho, endPrimitive_withAsm]
      cases s.dispState with
      | decode | respond | finish => rfl
      | busRun =>
        simp only [selectCycle_withAsm]
        cases nextOp s <;> rfl
      | idle | validate | busAcquire | txAcquire | txRun =>
        simp only [apply_ite (withAsm u)]
        rfl

/-- `t` has the assembler's registers and the slot's bytes of `s`, and the slot is as it was or has been
freed. -/
structure KeepsFrames (s t : State) : Prop where
  asmState : t.asmState = s.asmState
  asmLen : t.asmLen = s.asmLen
  asmBuf : t.asmBuf = s.asmBuf
  frameLen : t.frameLen = s.frameLen
  frameBuf : t.frameBuf = s.frameBuf
  frameReady : t.frameReady = true → s.frameReady = true

theorem finishCycle_keepsFrames (c : BusCycle) (s : State) : KeepsFrames s (finishCycle c s) := by
  obtain ⟨_, _, _, _, _, -, -, h⟩ := finishCycle_cases c s
  rw [h]
  exact ⟨rfl, rfl, rfl, rfl, rfl, id⟩

theorem selectCycle_keepsFrames (op : BusOp) (s : State) : KeepsFrames s (selectCycle op s) := by
  unfold selectCycle
  split <;> exact ⟨rfl, rfl, rfl, rfl, rfl, id⟩

theorem releaseBus_keepsFrames (s : State) : KeepsFrames s (releaseBus s) := by
  constructor <;> simp

/-- The dispatcher leaves the assembler and the slot's bytes alone, and of `frame_ready` it can only clear
the flag (R22, R29). -/
theorem dispatcherTurn_keepsFrames {s t : State} (h : DispatcherTurn s t) : KeepsFrames s t := by
  cases h with
  | deselect c => exact finishCycle_keepsFrames c s
  | select op => exact selectCycle_keepsFrames op s
  | endPrimitive =>
    obtain ⟨h1, h2, h3, h4, h5, h6⟩ := releaseBus_keepsFrames s
    exact ⟨h1, h2, h3, h4, h5, h6⟩
  | drop | finish => exact ⟨rfl, rfl, rfl, rfl, rfl, nofun⟩
  | _ => exact ⟨rfl, rfl, rfl, rfl, rfl, id⟩

/-- Settles O10: the byte writes the assembler's registers alone, and no turn of the dispatcher reads or
writes them. -/
theorem rxCommutesWithDispatcher : Obligations.RxCommutesWithDispatcher := by
  intro b s hocc hocc'
  obtain ⟨hst, hlen, hbuf, -, -, -⟩ := dispatcherTurn_keepsFrames (dispatcherTurn_cases s)
  rw [pushByte_eq_withAsm hocc hocc rfl rfl rfl, dispatcherTurn_withAsm,
    pushByte_eq_withAsm hocc hocc' hst hlen hbuf]

end Sys2Proof.Proofs.Reception

/-! What a turn and a step can do, said once for the invariants: the events of the environment, the states
in which a step's instruction starts its run, and the rule that what every turn and every such start keeps,
every step keeps. -/

namespace Sys2Proof.Proofs.Steps
open Sys2Proof Sys2Proof.Machine Sys2Proof.Laws Sys2Proof.Safety Sys2Proof.Proofs.Encoding

/-! ## The end of the bus cycle in progress (R59, R253) -/

/-- A store that the end of the cycle in progress can leave, however it ends: as it was, or with one write
by that cycle. -/
def CycleStore (s : State) (m : Store) : Prop :=
  m = s.store ∨ ∃ c a d v, s.cycle = some c ∧ c.op = .write a d ∧
    m = deviceWrite s.params s.draws s.store a v

theorem CycleStore.of_storeAfter {s : State} {c : BusCycle} {m : Store} (h : StoreAfter c.op s m)
    (hc : s.cycle = some c) : CycleStore s m := by
  rcases h with rfl | ⟨a, d, v, hop, rfl⟩
  · exact .inl rfl
  · exact .inr ⟨c, a, d, v, hc, hop, rfl⟩

/-- Only the cell that the write cycle in progress reaches can change. -/
theorem CycleStore.storeRead_other {s : State} {m : Store} (h : CycleStore s m) {b : Half}
    (hb : ∀ c a d, s.cycle = some c → c.op = .write a d → b ≠ deviceCell s.params s.draws a) :
    storeRead m b = storeRead s.store b := by
  rcases h with rfl | ⟨c, a, d, v, hc, hop, rfl⟩
  · rfl
  · exact storeRead_deviceWrite_other _ _ _ _ (hb c a d hc hop)

/-! ## Reset (70_reset_and_hazards R251, R253) -/

/-- Who holds a lock after a reset: an external holder keeps it. -/
def lockAfterReset (l : Lock) : Lock := if l = .heldBy .dispatcher then .free else l

/-- Everything a reset does. -/
theorem resetMachine_eq (s : State) : ∃ m n, CycleStore s m ∧
    resetMachine s = { State.reset with
      busLock := lockAfterReset s.busLock, txLock := lockAfterReset s.txLock, store := m,
      params := s.params, busReady := s.busReady, txReady := s.txReady, schedule := s.schedule,
      answers := s.answers, draws := n,
      trace := s.trace ++ (if s.cs = .asserted then [.csDeassert] else []) } := by
  cases hc : s.cycle with
  | none => exact ⟨_, _, .inl rfl, by simp only [resetMachine, hc]; rfl⟩
  | some c =>
    obtain ⟨op, p, st⟩ := c
    cases op with
    | read a n => exact ⟨_, _, .inl rfl, by simp only [resetMachine, hc]; rfl⟩
    | write a d => exact ⟨_, _, .inr ⟨_, a, d, _, hc, rfl, rfl⟩, by simp only [resetMachine, hc]; rfl⟩

/-! ## Events of the environment (10_state R20) -/

/-- The event `e` from `s`, each case with the guard it was enabled under (log 14). -/
inductive EnvTurn (s : State) : EnvEvent → State → Prop where
  | rx (b : Byte) : EnvTurn s (.rx b) (pushByte b s)
  | acquireBus (hp : s.params.hasExternalBusMaster = true) (hl : s.busLock = .free) :
      EnvTurn s .extAcquireBus (observe [.extAcqBus] { s with busLock := .heldBy .external })
  | releaseBus (hl : s.busLock = .heldBy .external) :
      EnvTurn s .extReleaseBus (observe [.extRelBus] { s with busLock := .free })
  | acquireTx (hp : s.params.hasExternalTxUser = true) (hl : s.txLock = .free) :
      EnvTurn s .extAcquireTx (observe [.extAcqTx] { s with txLock := .heldBy .external })
  | releaseTx (hl : s.txLock = .heldBy .external) :
      EnvTurn s .extReleaseTx (observe [.extRelTx] { s with txLock := .free })
  | store (a : Half) (v : Byte) (hl : s.busLock = .heldBy .external)
      (ha : inDevice s.params a = true) :
      EnvTurn s (.extStore a v) { s with store := storeWrite s.store a v }
  | waitExpires (hd : s.dispState = .busAcquire) (hlim : s.params.busWaitLimit.isSome = true) :
      EnvTurn s .waitExpires { s with busStatus := .timedOut, dispState := .respond }
  | transferExpires (c : BusCycle) (hc : s.cycle = some c)
      (hlim : s.params.busWaitLimit.isSome = true) : EnvTurn s .transferExpires (expireCycle c s)
  | busReady (r : Bool) : EnvTurn s (.setBusReady r) { s with busReady := r }
  | txReady (r : Bool) : EnvTurn s (.setTxReady r) { s with txReady := r }
  | reset : EnvTurn s .reset (resetMachine s)
  | notEnabled (e : EnvEvent) : EnvTurn s e s

theorem envAct_cases (e : EnvEvent) (s : State) : EnvTurn s e (envAct e s) := by
  cases e with
  | rx b => exact .rx b
  | extAcquireBus =>
    rw [envAct]
    split
    case isTrue h => exact .acquireBus h.1 h.2
    case isFalse => exact .notEnabled _
  | extReleaseBus =>
    rw [envAct]
    split
    case isTrue h => exact .releaseBus h
    case isFalse => exact .notEnabled _
  | extAcquireTx =>
    rw [envAct]
    split
    case isTrue h => exact .acquireTx h.1 h.2
    case isFalse => exact .notEnabled _
  | extReleaseTx =>
    rw [envAct]
    split
    case isTrue h => exact .releaseTx h
    case isFalse => exact .notEnabled _
  | extStore a v =>
    rw [envAct]
    split
    case isTrue h => exact .store a v h.1 h.2
    case isFalse => exact .notEnabled _
  | waitExpires =>
    rw [envAct]
    split
    case isTrue h =>
      simp only [waitExpiryEnabled, Bool.and_eq_true, decide_eq_true_eq] at h
      exact .waitExpires h.1 h.2
    case isFalse => exact .notEnabled _
  | transferExpires =>
    rw [envAct]
    split
    case h_1 c hc =>
      split
      case isTrue h => exact .transferExpires c hc h
      case isFalse => exact .notEnabled _
    case h_2 => exact .notEnabled _
  | setBusReady r => exact .busReady r
  | setTxReady r => exact .txReady r
  | reset => exact .reset

/-! ## Turns -/

/-- What every dispatcher turn and every event keeps, every turn keeps, if it does not speak of the
schedule. -/
theorem turn_keeps {P : State → Prop} (hschedule : ∀ s r, P s → P { s with schedule := r })
    (hdisp : ∀ s t, P s → DispatcherTurn s t → P t) (henv : ∀ s e t, P s → EnvTurn s e t → P t)
    (s : State) (h : P s) : P (turn s) := by
  rcases turn_cases s with ⟨-, ht⟩ | ⟨-, ht⟩ | ⟨e, -, ht⟩
  · exact ht ▸ hdisp s _ h (dispatcherTurn_cases s)
  · exact ht ▸ hdisp _ _ (hschedule s _ h) (dispatcherTurn_cases _)
  · exact ht ▸ henv _ e _ (hschedule s _ h) (envAct_cases e _)

/-! ## Plans and instructions -/

/-- The bus plans of the commands, with the transfer bounds of R57 and R159. -/
inductive BusPlan : Primitive → ReplyRule → Prop where
  | readByte (a : Half) : BusPlan (.readBlock a 1) .readByteResult
  | readAll (a : Half) {n : Nat} (hn : n ≤ 246) : BusPlan (.readBlock a n) (.readAllResult n)
  | verify (a : Half) {expected : List Byte} (hlen : expected.length ≤ 248) :
      BusPlan (.readBlock a expected.length) (.verify expected)
  | write (a : Half) {data : List Byte} (hlen : data.length ≤ 248) : BusPlan (.writeBlock a data) .ack

theorem isCommandCode_cases {code : Byte} (h : isCommandCode code = true) :
    code = Config.codeReadByte ∨ code = Config.codeWriteByte ∨ code = Config.codeReadAll ∨
    code = Config.codeWriteAll ∨ code = Config.codeClear ∨ code = Config.codeVerify ∨
    code = Config.codeSaveProfile ∨ code = Config.codeLoadProfile := by
  revert h code
  decide

/-- A command decode that answers an instruction has passed its length check. -/
theorem instr_of_check {c : Prop} [Decidable c] {i j : Instr} {r : Reject}
    (h : (if c then Decoded.instr j else .reject r) = .instr i) : c ∧ i = j := by
  split at h
  · exact ⟨‹c›, by cases h; rfl⟩
  · cases h

/-- What the decoder reads from a payload that a frame can carry is a well-formed request. -/
theorem decodeCommand_wellFormed {code : Byte} {p : List Byte} {i : Instr}
    (hlen : p.length ≤ Config.maxPayload) (h : decodeCommand code p = .instr i) :
    isRequest i = true ∧ i.wellFormed = true := by
  have hblock : (p.drop 4).length ≤ Config.maxTransfer := by
    simp only [Config.maxPayload] at hlen
    simp only [Config.maxTransfer, List.length_drop]
    omega
  by_cases hcode : isCommandCode code = true
  · rcases isCommandCode_cases hcode with rfl | rfl | rfl | rfl | rfl | rfl | rfl | rfl
    · obtain ⟨-, rfl⟩ := instr_of_check (decodeCommand_readByte p ▸ h)
      exact ⟨rfl, rfl⟩
    · obtain ⟨-, rfl⟩ := instr_of_check (decodeCommand_writeByte p ▸ h)
      exact ⟨rfl, rfl⟩
    · obtain ⟨-, rfl⟩ := instr_of_check (decodeCommand_readAll p ▸ h)
      exact ⟨rfl, rfl⟩
    · obtain ⟨-, rfl⟩ := instr_of_check (decodeCommand_writeAll p ▸ h)
      exact ⟨rfl, decide_eq_true hblock⟩
    · obtain ⟨-, rfl⟩ := instr_of_check (decodeCommand_clear p ▸ h)
      exact ⟨rfl, rfl⟩
    · obtain ⟨-, rfl⟩ := instr_of_check (decodeCommand_verify p ▸ h)
      exact ⟨rfl, decide_eq_true hblock⟩
    · obtain ⟨hp, rfl⟩ := instr_of_check (decodeCommand_saveProfile p ▸ h)
      exact ⟨rfl, decide_eq_true (by simp [hp, Config.profileSize])⟩
    · obtain ⟨-, rfl⟩ := instr_of_check (decodeCommand_loadProfile p ▸ h)
      exact ⟨rfl, rfl⟩
  · simp only [Bool.not_eq_true] at hcode
    rw [decodeCommand_unknown p hcode] at h
    cases h
    exact ⟨rfl, by simp [Instr.wellFormed, hcode, hlen]⟩

theorem framePayload_slotFrame_length (s : State) :
    (framePayload (slotFrame s)).length ≤ Config.maxPayload := by
  simp [framePayload, slotFrame, bufPrefix, Config.maxPayload]

/-! ## Where an instruction's run starts -/

/-- `s` with the request's registers latched (R31, R143). -/
def withRequest (code : Byte) (plen : Nat) (addr size : Half) (id : Byte) (s : State) : State :=
  { s with reqCode := code, reqPlen := plen, reqAddr := addr, reqSize := size, reqId := id }

theorem isRequest_of_usesBus {i : Instr} (h : usesBus i = true) : isRequest i = true := by
  cases i with
  | readByte | writeByte | readAll | writeAll | clear | verify | saveProfile | loadProfile => rfl
  | _ => cases h

/-- The block that a primitive writes: its first address and its number of bytes. -/
def writtenBlock : Primitive → Half × Nat
  | .readBlock _ _ => (0, 0)
  | .writeBlock a data => (a, data.length)

/-- `exec i` latches the request and runs the plan of `prim` and `rule`. -/
def RunsPlan (i : Instr) (prim : Primitive) (rule : ReplyRule) : Prop :=
  ∀ s, ∃ code plen addr size id,
    exec i s = .next (runCycle (planBus prim rule (withRequest code plen addr size id s)))

/-- `exec i` latches the request and raises InvalidCommand. -/
def RaisesInvalidCommand (i : Instr) : Prop :=
  ∀ s, ∃ code plen addr size id,
    exec i s = .next (runCycle (raiseNack Config.errInvalidCommand
      (withRequest code plen addr size id s)))

/-- What a request does: its bus plan, or the Nack of an unknown code or an invalid profile index. -/
inductive RequestRuns (i : Instr) : Prop where
  | plan (prim : Primitive) (rule : ReplyRule) (hplan : i.wellFormed = true → BusPlan prim rule)
      (hblock : storedBlock i = writtenBlock prim) (hruns : RunsPlan i prim rule)
  | invalidCommand (hno : usesBus i = false) (hraises : RaisesInvalidCommand i)

theorem exec_request {i : Instr} (hi : isRequest i = true) : RequestRuns i := by
  have hclamp (n : Half) : (clamp n).toNat ≤ 246 := by
    rw [clamp_toNat]
    exact Nat.min_le_right _ _
  cases i with
  | readByte a => exact .plan _ _ (fun _ => .readByte a) rfl fun _ => ⟨_, _, _, _, _, rfl⟩
  | writeByte a d =>
    exact .plan _ _ (fun _ => .write a (data := [d]) (by simp)) rfl fun _ => ⟨_, _, _, _, _, rfl⟩
  | readAll a n => exact .plan _ _ (fun _ => .readAll a (hclamp n)) rfl fun _ => ⟨_, _, _, _, _, rfl⟩
  | writeAll a data =>
    exact .plan _ _ (fun hwf => .write a (of_decide_eq_true hwf)) rfl fun _ => ⟨_, _, _, _, _, rfl⟩
  | clear n =>
    have hlen : (List.replicate (clamp n).toNat (0xFF : Byte)).length = (clamp n).toNat := by simp
    exact .plan _ _ (fun _ => .write 0 (hlen.trans_le ((hclamp n).trans (by decide))))
      (by rw [storedBlock, writtenBlock, hlen]) fun _ => ⟨_, _, _, _, _, rfl⟩
  | verify a expected =>
    exact .plan _ _ (fun hwf => .verify a (of_decide_eq_true hwf)) rfl fun _ => ⟨_, _, _, _, _, rfl⟩
  | saveProfile id data =>
    have hlen (hwf : (Instr.saveProfile id data).wellFormed = true) : data.length ≤ 248 := by
      have hdata : data.length = 64 := of_decide_eq_true hwf
      omega
    cases hid : validProfile id with
    | true =>
      exact .plan (saveProfilePrim id data) _ (fun hwf => .write _ (hlen hwf)) (if_pos hid)
        fun _ => ⟨_, _, _, _, _, if_pos hid⟩
    | false => exact .invalidCommand hid fun _ => ⟨_, _, _, _, _, if_neg (by simp [hid])⟩
  | loadProfile id =>
    cases hid : validProfile id with
    | true =>
      exact .plan (loadProfilePrim id) _ (fun _ => .readAll _ (by decide)) rfl
        fun _ => ⟨_, _, _, _, _, if_pos hid⟩
    | false => exact .invalidCommand hid fun _ => ⟨_, _, _, _, _, if_neg (by simp [hid])⟩
  | unknown code payload => exact .invalidCommand rfl fun _ => ⟨_, _, _, _, _, rfl⟩
  | _ => cases hi

/-- No request is refused (R220). -/
theorem exec_request_next {i : Instr} (hi : isRequest i = true) (s : State) :
    ∃ t, exec i s = .next t := by
  cases exec_request hi with
  | plan _ _ _ _ hruns =>
    obtain ⟨_, _, _, _, _, hexec⟩ := hruns s
    exact ⟨_, hexec⟩
  | invalidCommand _ hraises =>
    obtain ⟨_, _, _, _, _, hexec⟩ := hraises s
    exact ⟨_, hexec⟩

theorem decodeResponse_code {code : Byte} {p : List Byte} {i : Instr}
    (h : decodeResponse code p = .instr i) :
    code = Config.codeAck ∨ code = Config.codeNack ∨ code = Config.codeReadByteResult ∨
    code = Config.codeReadAllResult ∨ code = Config.codeVerifyOk ∨ code = Config.codeVerifyFail ∨
    code = Config.codeError := by
  by_contra hne
  simp only [not_or] at hne
  obtain ⟨h1, h2, h3, h4, h5, h6, h7⟩ := hne
  simp [decodeResponse, h1, h2, h3, h4, h5, h6, h7] at h

theorem exec_nack (e : Byte) (s : State) : exec (.nack e) s =
    if errorCodeSent s.params e then .next (runCycle (respondWith Config.codeNack [e] s))
    else .refused (.errorCodeNeverSent e) := rfl

/-- A response that runs is one that SCFD sends, and it runs from its built frame. -/
theorem exec_response {code : Byte} {p : List Byte} {i : Instr} {s t : State}
    (hi : decodeResponse code p = .instr i) (h : exec i s = .next t) :
    Sendable s.params code p ∧ t = runCycle (respondWith code p s) := by
  rcases decodeResponse_code hi with rfl | rfl | rfl | rfl | rfl | rfl | rfl
  · obtain ⟨hp, rfl⟩ := instr_of_check (decodeResponse_ack p ▸ hi)
    obtain rfl := List.length_eq_zero_iff.1 hp
    cases h
    exact ⟨.inl ⟨rfl, rfl⟩, rfl⟩
  · obtain ⟨hp, rfl⟩ := instr_of_check (decodeResponse_nack p ▸ hi)
    obtain ⟨e, rfl⟩ := List.length_eq_one_iff.1 hp
    rw [exec_nack] at h
    split at h
    case isTrue he =>
      cases h
      exact ⟨.inr (.inl ⟨rfl, e, rfl, he⟩), rfl⟩
    case isFalse => cases h
  · obtain ⟨hp, rfl⟩ := instr_of_check (decodeResponse_readByteResult p ▸ hi)
    obtain ⟨d, rfl⟩ := List.length_eq_one_iff.1 hp
    cases h
    exact ⟨.inr (.inr (.inl ⟨rfl, rfl⟩)), rfl⟩
  · obtain ⟨hp, rfl⟩ := instr_of_check (decodeResponse_readAllResult p ▸ hi)
    cases h
    exact ⟨.inr (.inr (.inr (.inl ⟨rfl, hp⟩))), rfl⟩
  · obtain ⟨hp, rfl⟩ := instr_of_check (decodeResponse_verifyOk p ▸ hi)
    obtain rfl := List.length_eq_zero_iff.1 hp
    cases h
    exact ⟨.inr (.inr (.inr (.inr (.inl ⟨rfl, rfl⟩)))), rfl⟩
  · obtain ⟨hp, rfl⟩ := instr_of_check (decodeResponse_verifyFail p ▸ hi)
    obtain rfl := List.length_eq_zero_iff.1 hp
    cases h
    exact ⟨.inr (.inr (.inr (.inr (.inr ⟨rfl, rfl⟩)))), rfl⟩
  · obtain ⟨hp, rfl⟩ := instr_of_check (decodeResponse_error p ▸ hi)
    cases h

theorem exec_timeout (s : State) : exec .timeout s =
    if s.params.busWaitLimit.isSome then
      .next (runCycle (raiseNack Config.errTimeout { s with busStatus := .timedOut }))
    else .refused (.errorCodeNeverSent Config.errTimeout) := rfl

theorem errorCodeSent_timeout {p : Params} (h : p.busWaitLimit.isSome = true) :
    errorCodeSent p Config.errTimeout = true := by
  simp [errorCodeSent, h]

/-! ## The instruction at the control point (30_encoding R102, 42 R163) -/

theorem fetch_of_dispatcherNext {s : State} (h : DispatcherNext s) : fetch s = fetchDispatcher s := by
  rcases h with hs | hs
  · simp [fetch, hs]
  · obtain ⟨r, hr⟩ := List.head?_eq_some_iff.1 hs
    simp [fetch, hr]

theorem exists_event_of_not_dispatcherNext {s : State} (h : ¬DispatcherNext s) :
    ∃ e, s.schedule.head? = some (.env e) := by
  simp only [DispatcherNext, not_or] at h
  obtain ⟨hne, hnd⟩ := h
  obtain ⟨x, r, hs⟩ := List.exists_cons_of_ne_nil hne
  cases x with
  | dispatcher => simp [hs] at hnd
  | env e => exact ⟨e, by simp [hs]⟩

theorem fetch_of_waitExpires {s : State} (he : s.schedule.head? = some (.env .waitExpires))
    (hw : waitExpiryEnabled s = true) : fetch s = .run .timeout := by
  obtain ⟨r, hr⟩ := List.head?_eq_some_iff.1 he
  simp [fetch, hr, hw]

theorem fetch_of_event {s : State} {e : EnvEvent} (he : s.schedule.head? = some (.env e))
    (hw : ¬(e = .waitExpires ∧ waitExpiryEnabled s = true)) : fetch s = .advance := by
  obtain ⟨r, hr⟩ := List.head?_eq_some_iff.1 he
  cases e with
  | waitExpires => simpa [fetch, hr] using hw
  | _ => simp [fetch, hr]

theorem fetchDispatcher_of_busy {s : State} (h : (s.settling || s.cycle.isSome) = true) :
    fetchDispatcher s = .advance := by
  rw [fetchDispatcher, if_pos h]

section
variable {s : State} (hset : s.settling = false) (hc : s.cycle = none)
include hset hc

theorem fetchDispatcher_of_waiting (hd : s.dispState = .idle ∨ s.dispState = .busAcquire ∨
    s.dispState = .txAcquire ∨ s.dispState = .txRun ∨ s.dispState = .finish) :
    fetchDispatcher s = .advance := by
  rcases hd with hd | hd | hd | hd | hd <;> simp [fetchDispatcher, hset, hc, hd]

theorem fetchDispatcher_of_request {i : Instr} (hd : s.dispState = .decode)
    (hi : slotDecoded s = .instr i) : fetchDispatcher s = .run i := by
  simp [fetchDispatcher, hset, hc, hd, hi]

theorem fetchDispatcher_of_rejected {r : Reject} (hd : s.dispState = .decode)
    (hi : slotDecoded s = .reject r) : fetchDispatcher s = .run .invalidCommand := by
  simp [fetchDispatcher, hset, hc, hd, hi]

theorem fetchDispatcher_of_response {i : Instr} (hd : s.dispState = .respond)
    (hi : decodeResponse (chooseResponse s).1 (chooseResponse s).2 = .instr i) :
    fetchDispatcher s = .run i := by
  simp [fetchDispatcher, hset, hc, hd, hi]

theorem fetchDispatcher_of_nextOp {op : BusOp} (hd : s.dispState = .busRun)
    (ho : nextOp s = some op) : fetchDispatcher s = .run (busInstr op) := by
  simp [fetchDispatcher, hset, hc, hd, ho]

theorem fetchDispatcher_of_failure (hd : s.dispState = .busRun) (ho : nextOp s = none)
    (hb : s.busStatus = .fail) : fetchDispatcher s = .run .busFailure := by
  simp [fetchDispatcher, hset, hc, hd, ho, hb]

theorem fetchDispatcher_of_primitiveEnd (hd : s.dispState = .busRun) (ho : nextOp s = none)
    (hb : s.busStatus ≠ .fail) : fetchDispatcher s = .advance := by
  simp [fetchDispatcher, hset, hc, hd, ho, hb]

end

/-! ## Where a step's instruction starts -/

/-- The states in which the instruction of a step from `s` starts its run. -/
inductive Launch (s : State) : State → Prop where
  | plan (code : Byte) (plen : Nat) (addr size : Half) (id : Byte) {prim : Primitive}
      {rule : ReplyRule} (hset : s.settling = false) (hc : s.cycle = none) (hd : s.dispState = .decode)
      (hplan : BusPlan prim rule) :
      Launch s (planBus prim rule
        (withRequest code plen addr size id { s with schedule := s.schedule.tail }))
  | invalidCommand (code : Byte) (plen : Nat) (addr size : Half) (id : Byte)
      (hset : s.settling = false) (hc : s.cycle = none) (hd : s.dispState = .decode) :
      Launch s (raiseNack Config.errInvalidCommand
        (withRequest code plen addr size id { s with schedule := s.schedule.tail }))
  | busFailure (hset : s.settling = false) (hc : s.cycle = none) (hd : s.dispState = .busRun) :
      Launch s (raiseNack Config.errBusFailure
        { s with schedule := s.schedule.tail, busStatus := .fail })
  | timeout (hlim : s.params.busWaitLimit.isSome = true) (hd : s.dispState = .busAcquire) :
      Launch s (raiseNack Config.errTimeout
        { s with schedule := s.schedule.tail, busStatus := .timedOut })
  | respond (code : Byte) (payload : List Byte) (hset : s.settling = false) (hc : s.cycle = none)
      (hd : s.dispState = .respond) (hsend : Sendable s.params code payload) :
      Launch s (respondWith code payload { s with schedule := s.schedule.tail })
  | select (op : BusOp) (hset : s.settling = false) (hc : s.cycle = none)
      (hd : s.dispState = .busRun) : Launch s (selectCycle op { s with schedule := s.schedule.tail })
  | drop (hset : s.settling = false) (hc : s.cycle = none) (hd : s.dispState = .validate) :
      Launch s (dropFrame { s with schedule := s.schedule.tail })

theorem prepare_of_not_decode {s : State} (hd : s.dispState ≠ .decode) :
    prepare s = { s with schedule := s.schedule.tail } := by
  rw [prepare, if_neg hd]

theorem prepare_of_decode {s : State} (hd : s.dispState = .decode) :
    prepare s = withRequest (frameCode (slotFrame s)) (s.frameLen - 4) s.reqAddr s.reqSize s.reqId
      { s with schedule := s.schedule.tail } := by
  rw [prepare, if_pos hd]
  rfl

/-- A step is one turn, or starts its instruction and runs it. -/
theorem step_starts {s t : State} (h : step s = .next t) :
    t = turn s ∨ ∃ s0, Launch s s0 ∧ (t = runCycle s0 ∨ t = runBusCycle s0 ∨ t = s0) := by
  cases step_cases h with
  | advance => exact .inl rfl
  | request i _ _ hset hc hd hi h =>
    obtain ⟨hreq, hwf⟩ := decodeCommand_wellFormed (framePayload_slotFrame_length s) hi
    rw [prepare_of_decode hd] at h
    cases exec_request hreq with
    | plan prim rule hplan _ hruns =>
      obtain ⟨code, plen, addr, size, id, hexec⟩ := hruns _
      rw [hexec] at h
      cases h
      exact .inr ⟨_, .plan code plen addr size id hset hc hd (hplan hwf), .inl rfl⟩
    | invalidCommand _ hraises =>
      obtain ⟨code, plen, addr, size, id, hexec⟩ := hraises _
      rw [hexec] at h
      cases h
      exact .inr ⟨_, .invalidCommand code plen addr size id hset hc hd, .inl rfl⟩
  | wrongLength r _ _ hset hc hd hi h =>
    rw [prepare_of_decode hd] at h
    cases h
    exact .inr ⟨_, .invalidCommand _ _ _ _ _ hset hc hd, .inl rfl⟩
  | response i _ _ hset hc hd hi h =>
    rw [prepare_of_not_decode (by simp [hd])] at h
    obtain ⟨hsend, rfl⟩ := exec_response hi h
    exact .inr ⟨_, .respond _ _ hset hc hd hsend, .inl rfl⟩
  | bus op _ _ hset hc hd _ h =>
    rw [prepare_of_not_decode (by simp [hd])] at h
    cases op <;> cases h <;> exact .inr ⟨_, .select _ hset hc hd, .inr (.inl rfl)⟩
  | busFailure _ _ hset hc hd _ h =>
    rw [prepare_of_not_decode (by simp [hd])] at h
    cases h
    exact .inr ⟨_, .busFailure hset hc hd, .inl rfl⟩
  | checksum _ _ hset hc hd h =>
    rw [prepare_of_not_decode (by simp [hd])] at h
    cases h
    exact .inr ⟨_, .drop hset hc hd, .inr (.inr rfl)⟩
  | timeout _ hw _ h =>
    simp only [waitExpiryEnabled, Bool.and_eq_true, decide_eq_true_eq] at hw
    obtain ⟨hd, hlim⟩ := hw
    rw [prepare_of_not_decode (by simp [hd]), exec_timeout, if_pos (by exact hlim)] at h
    cases h
    exact .inr ⟨_, .timeout hlim hd, .inl rfl⟩

/-- What every turn and every start of an instruction keeps, every step keeps. -/
theorem step_keeps {P : State → Prop} (hturn : ∀ s, P s → P (turn s))
    (hlaunch : ∀ s s0, P s → Launch s s0 → P s0) {s t : State} (h : P s) (hstep : step s = .next t) :
    P t := by
  rcases step_starts hstep with rfl | ⟨s0, hs0, rfl | rfl | rfl⟩
  · exact hturn s h
  · exact runUntil_invariant hturn _ _ _ (hlaunch s s0 h hs0)
  · exact runUntil_invariant hturn _ _ _ (hlaunch s s0 h hs0)
  · exact hlaunch s _ h hs0

end Sys2Proof.Proofs.Steps

/-! The invariant of the assembler and the slot (10_state R24; 40_frame_assembler R119): kept by every
received byte and by reset, and left alone by everything else, and so kept by every step. -/

namespace Sys2Proof.Proofs.Frames
open Sys2Proof Sys2Proof.Machine Sys2Proof.Laws Sys2Proof.Safety Sys2Proof.Proofs.FrameAssembler
  Sys2Proof.Proofs.Reception Sys2Proof.Proofs.Steps

/-- The two invariants of O47. -/
def FramesInv (s : State) : Prop := AsmInv s ∧ SlotInv s

theorem FramesInv.of_keepsFrames {s t : State} (h : FramesInv s) (hkeep : KeepsFrames s t) :
    FramesInv t := by
  obtain ⟨hstate, hlen, hbuf, hflen, hfbuf, hready⟩ := hkeep
  obtain ⟨hasm, hslot⟩ := h
  constructor
  · unfold AsmInv
    rw [hstate, hlen, hbuf]
    exact hasm
  · intro hr
    rw [hflen, hfbuf]
    exact hslot (hready hr)

/-! ## Bytes of a buffer -/

theorem byteAt_bufPrefix (b : Buf) {i n : Nat} (hi : i < n) : byteAt (bufPrefix b n) i = bufGet b i := by
  simp only [byteAt, bufPrefix, bufGet, List.getD_eq_getElem?_getD, List.getElem?_take_of_lt hi]

theorem bufPrefix_length (b : Buf) {n : Nat} (hn : n ≤ 256) : (bufPrefix b n).length = n := by
  simp [bufPrefix, hn]

/-- What has been copied from the first bytes of one buffer is read back as that buffer's. -/
theorem bufGet_overwrite_bufPrefix (b c : Buf) {i n : Nat} (hi : i < n) (hn : n ≤ 256) :
    bufGet (bufOverwrite b (bufPrefix c n)) i = bufGet c i := by
  rw [bufGet_overwrite _ _ _ (by rw [bufPrefix_length _ hn]; exact hn), bufPrefix_length _ hn, if_pos hi,
    byteAt_bufPrefix c hi]

theorem bufGet_set_same (b : Buf) {i : Nat} (hi : i < 256) (v : Byte) : bufGet (bufSet b i v) i = v := by
  simp [bufGet_set, hi]

theorem bufGet_set_other (b : Buf) {i j : Nat} (hij : j ≠ i) (v : Byte) :
    bufGet (bufSet b i v) j = bufGet b j := by
  simp [bufGet_set, hij]

/-! ## Received bytes and other events (R110 to R118) -/

/-- A received byte: each case of `push_byte` keeps both invariants, C-append because its byte is no TAIL
from offset 3 on, C-complete because the TAIL is the last byte of what was collected. -/
theorem FramesInv.pushTo {b : Byte} {s t : State} (h : FramesInv s) (hpush : PushTo b s t) :
    FramesInv t := by
  obtain ⟨hasm, hslot⟩ := h
  cases hpush with
  | skip => exact ⟨hasm, hslot⟩
  | start =>
    refine ⟨⟨nofun, fun _ => ⟨le_rfl, by simp, bufGet_set_same _ (by decide) _, fun i h3 hi => ?_⟩⟩, hslot⟩
    simp only at hi
    omega
  | overflow => exact ⟨⟨fun _ => rfl, nofun⟩, hslot⟩
  | append hc hlen hmore =>
    obtain ⟨hlo, -, hhead, hinner⟩ := hasm.2 hc
    refine ⟨⟨fun hw => ?_, fun _ => ⟨by simp [asmAppend], hlen, ?_, fun i h3 hi => ?_⟩⟩, hslot⟩
    · simp [asmAppend, hc] at hw
    · exact (bufGet_set_other _ (by omega) b).trans hhead
    · rcases Nat.lt_succ_iff_lt_or_eq.1 hi with hold | rfl
      · exact fun htail => hinner i h3 hold ((bufGet_set_other _ hold.ne b).symm.trans htail)
      · intro htail
        exact hmore ⟨(bufGet_set_same _ hlen b).symm.trans htail, Nat.succ_le_succ h3⟩
  | completeFree hc hlen hmin hfree =>
    obtain ⟨hlo, -, hhead, hinner⟩ := hasm.2 hc
    have hread (i : Nat) (hi : i < s.asmLen + 1) := bufGet_overwrite_bufPrefix s.frameBuf
      (bufSet s.asmBuf s.asmLen Config.tail) hi hlen
    refine ⟨⟨fun _ => rfl, nofun⟩, fun _ => ⟨hmin, hlen, ?_, ?_, fun i h3 hi => ?_⟩⟩
    · exact (hread 0 (by omega)).trans ((bufGet_set_other _ (by omega) _).trans hhead)
    · exact (hread s.asmLen (by omega)).trans (bufGet_set_same _ hlen _)
    · have hi' : i < s.asmLen := by simpa using hi
      rw [hread i (by omega), bufGet_set_other _ hi'.ne]
      exact hinner i h3 hi'
  | completeOccupied => exact ⟨⟨fun _ => rfl, nofun⟩, hslot⟩

theorem FramesInv.envTurn {s t : State} {e : EnvEvent} (h : FramesInv s) (henv : EnvTurn s e t) :
    FramesInv t := by
  cases henv with
  | rx b => exact h.pushTo (pushByte_cases b s)
  | transferExpires c =>
    obtain ⟨_, _, _, -, hexp⟩ := expireCycle_cases c s
    rw [hexp]
    exact h.of_keepsFrames ⟨rfl, rfl, rfl, rfl, rfl, id⟩
  | reset => exact ⟨⟨fun _ => rfl, nofun⟩, nofun⟩
  | _ => exact h.of_keepsFrames ⟨rfl, rfl, rfl, rfl, rfl, id⟩

/-! ## Instructions and steps -/

theorem raiseNack_keepsFrames (e : Byte) (s : State) : KeepsFrames s (raiseNack e s) := by
  constructor <;> simp

theorem launch_keepsFrames {s t : State} (h : Launch s t) : KeepsFrames s t := by
  cases h with
  | invalidCommand | busFailure | timeout =>
    obtain ⟨h1, h2, h3, h4, h5, h6⟩ := raiseNack_keepsFrames _ _
    exact ⟨h1, h2, h3, h4, h5, h6⟩
  | select op =>
    obtain ⟨h1, h2, h3, h4, h5, h6⟩ :=
      selectCycle_keepsFrames op { s with schedule := s.schedule.tail }
    exact ⟨h1, h2, h3, h4, h5, h6⟩
  | drop => exact ⟨rfl, rfl, rfl, rfl, rfl, nofun⟩
  | _ => exact ⟨rfl, rfl, rfl, rfl, rfl, id⟩

theorem FramesInv.turn {s : State} (h : FramesInv s) : FramesInv (turn s) :=
  turn_keeps (fun _ _ h => h) (fun _ _ h ht => h.of_keepsFrames (dispatcherTurn_keepsFrames ht))
    (fun _ _ _ h ht => h.envTurn ht) s h

/-- Settles O47: the dispatcher and its instructions leave the assembler and the slot's bytes, so only a
received byte and a reset are left to look at. -/
theorem stepKeepsFrames : Obligations.StepKeepsFrames := fun _ _ hasm hslot hstep =>
  step_keeps (P := FramesInv) (fun _ h => h.turn) (fun _ _ h hl => h.of_keepsFrames (launch_keepsFrames hl))
    ⟨hasm, hslot⟩ hstep

end Sys2Proof.Proofs.Frames

/-! The locks, their external holders and the store (10_state section 5, R44; 20_memory R52): what turns,
events and starts of instructions do to them, and that every step keeps their invariants. -/

namespace Sys2Proof.Proofs.Locks
open Sys2Proof Sys2Proof.Machine Sys2Proof.Laws Sys2Proof.Safety Sys2Proof.Proofs.Reception
  Sys2Proof.Proofs.Steps

/-! ## The locks and chip-select (R36, R38, R39) -/

theorem releaseBus_not_held (s : State) : (releaseBus s).busLock ≠ .heldBy .dispatcher := by
  rw [releaseBus_busLock]
  split <;> simp_all

theorem lockAfterReset_not_held (l : Lock) : lockAfterReset l ≠ .heldBy .dispatcher := by
  unfold lockAfterReset
  split <;> simp_all

/-- A bus cycle that has ended, with or without a settle delay to come. -/
theorem lockInv_of_deselected {s : State} (h : LockInv s) {c : BusCycle} (hc : s.cycle = some c)
    {t : State} (hbus : t.busLock = s.busLock) (htx : t.txLock = s.txLock)
    (hd : t.dispState = s.dispState) (hcs : t.cs = .deasserted) (hcyc : t.cycle = none) : LockInv t := by
  obtain ⟨hbusRun, htxRun, -, hcycle, -⟩ := h
  obtain ⟨hheld, -⟩ := hcycle (by simp [hc])
  exact ⟨by rw [hbus, hd]; exact hbusRun, by rw [htx, hd]; exact htxRun, by simp [hcs, hcyc],
    by simp [hcyc], fun _ => hbus.trans hheld⟩

/-- A cycle's events keep who holds what; with no cycle under way the guard names the control point, which
says by the invariant who holds each lock, and the turn moves the lock together with the control point. -/
theorem lockInv_dispatcherTurn {s t : State} (h : LockInv s) (ht : DispatcherTurn s t) : LockInv t := by
  have hinv := h
  obtain ⟨hbusRun, htxRun, hcs, hcycle, hsettle⟩ := h
  cases ht with
  | endSettle hset => simp_all [LockInv, endSettle]
  | busOut c hset hc hp => simp_all [LockInv]
  | busIn c a n k hset hc => simp_all [LockInv, inputByte]
  | deselect c hset hc =>
    obtain ⟨_, _, _, _, _, -, -, hfin⟩ := finishCycle_cases c s
    rw [hfin]
    exact lockInv_of_deselected hinv hc rfl rfl rfl rfl rfl
  | toValidate hset hc hd => simp_all [LockInv]
  | toDecode hset hc hd => simp_all [LockInv]
  | drop hset hc hd => simp_all [LockInv, dropFrame]
  | acquireBus hset hc hd => simp_all [LockInv, acquireBus]
  | select op hset hc hd => simp_all [LockInv, selectCycle]
  | endPrimitive hset hc hd => simp_all [LockInv, endPrimitive, releaseBus_not_held]
  | respond hset hc hd => simp_all [LockInv, respondWith]
  | acquireTx hset hc hd => simp_all [LockInv, acquireTx]
  | emit hset hc hd => simp_all [LockInv, emitByte]
  | releaseTx hset hc hd => simp_all [LockInv, releaseTx]
  | finish hset hc hd => simp_all [LockInv, endCycle]
  | stay => exact hinv

/-- Events of other agents move a lock only between free and an external holder, and an expired wait leaves
`BusAcquire`, where the dispatcher holds neither lock. -/
theorem lockInv_envTurn {s t : State} {e : EnvEvent} (h : LockInv s) (ht : EnvTurn s e t) : LockInv t := by
  have hinv := h
  obtain ⟨hbusRun, htxRun, hcs, hcycle, hsettle⟩ := h
  cases ht with
  | rx b => simp_all [LockInv]
  | acquireBus hp hl => simp_all [LockInv]
  | releaseBus hl => simp_all [LockInv]
  | acquireTx hp hl => simp_all [LockInv]
  | releaseTx hl => simp_all [LockInv]
  | waitExpires hd => simp_all [LockInv]
  | transferExpires c hc =>
    obtain ⟨_, _, _, -, hexp⟩ := expireCycle_cases c s
    rw [hexp]
    exact lockInv_of_deselected hinv hc rfl rfl rfl rfl rfl
  | reset =>
    obtain ⟨_, _, -, hreset⟩ := resetMachine_eq s
    rw [hreset]
    simp [LockInv, lockAfterReset_not_held, State.reset]
  | _ => exact hinv

/-- An instruction starts with no cycle under way, and a raised Nack gives `bus_lock` back (R222). -/
theorem lockInv_launch {s t : State} (h : LockInv s) (ht : Launch s t) : LockInv t := by
  have hinv := h
  obtain ⟨hbusRun, htxRun, hcs, hcycle, hsettle⟩ := h
  cases ht with
  | plan _ _ _ _ _ hset hc hd => simp_all [LockInv, planBus, withRequest]
  | invalidCommand _ _ _ _ _ hset hc hd => simp_all [LockInv, withRequest, releaseBus_not_held, raiseNack]
  | busFailure hset hc hd => simp_all [LockInv, releaseBus_not_held, raiseNack]
  | timeout hlim hd => simp_all [LockInv, releaseBus_not_held, raiseNack]
  | respond _ _ hset hc hd => simp_all [LockInv, respondWith]
  | select op hset hc hd => simp_all [LockInv, selectCycle]
  | drop hset hc hd => simp_all [LockInv, dropFrame]

/-- Settles O48: each turn and each start of an instruction moves the locks, chip-select and the control
point together. -/
theorem stepKeepsLocks : Obligations.StepKeepsLocks := fun _ _ =>
  step_keeps (turn_keeps (fun _ _ h => h) (fun _ _ => lockInv_dispatcherTurn)
    (fun _ _ _ => lockInv_envTurn)) (fun _ _ => lockInv_launch)

/-! ## The parameters are constant (R16) -/

theorem dispatcherTurn_params {s t : State} (ht : DispatcherTurn s t) : t.params = s.params := by
  cases ht with
  | deselect c =>
    obtain ⟨_, _, _, _, _, -, -, hfin⟩ := finishCycle_cases c s
    rw [hfin]
  | select op => unfold selectCycle; split <;> rfl
  | endPrimitive => exact releaseBus_params s
  | _ => rfl

theorem envTurn_params {s t : State} {e : EnvEvent} (ht : EnvTurn s e t) : t.params = s.params := by
  cases ht with
  | rx b => exact pushByte_params b s
  | transferExpires c =>
    obtain ⟨_, _, _, -, hexp⟩ := expireCycle_cases c s
    rw [hexp]
  | reset =>
    obtain ⟨_, _, -, hreset⟩ := resetMachine_eq s
    rw [hreset]
  | _ => rfl

theorem launch_params {s t : State} (ht : Launch s t) : t.params = s.params := by
  cases ht with
  | invalidCommand | busFailure | timeout => exact raiseNack_params _ _
  | select op => unfold selectCycle; split <;> rfl
  | _ => rfl

/-! ## External holders (R36, R37, D15) -/

/-- `t` has the parameters of `s`, and no lock is held externally in `t` that was not in `s`. -/
def NoNewHolder (s t : State) : Prop :=
  t.params = s.params ∧ (t.busLock = .heldBy .external → s.busLock = .heldBy .external) ∧
  (t.txLock = .heldBy .external → s.txLock = .heldBy .external)

theorem externalInv_of_noNewHolder {s t : State} (h : ExternalInv s) (hn : NoNewHolder s t) :
    ExternalInv t := by
  obtain ⟨hbus, htx⟩ := h
  obtain ⟨hparams, hbus', htx'⟩ := hn
  rw [ExternalInv, hparams]
  exact ⟨hbus ∘ hbus', htx ∘ htx'⟩

theorem releaseBus_external {s : State} (h : (releaseBus s).busLock = .heldBy .external) :
    s.busLock = .heldBy .external := by
  rw [releaseBus_busLock] at h
  split at h
  · cases h
  · exact h

theorem lockAfterReset_external {l : Lock} (h : lockAfterReset l = .heldBy .external) :
    l = .heldBy .external := by
  unfold lockAfterReset at h
  split at h
  · cases h
  · exact h

theorem dispatcherTurn_noNewHolder {s t : State} (ht : DispatcherTurn s t) : NoNewHolder s t := by
  refine ⟨dispatcherTurn_params ht, ?_⟩
  cases ht with
  | deselect c =>
    obtain ⟨_, _, _, _, _, -, -, hfin⟩ := finishCycle_cases c s
    rw [hfin]
    exact ⟨id, id⟩
  | select op => unfold selectCycle; split <;> exact ⟨id, id⟩
  | endPrimitive => exact ⟨releaseBus_external, by simp [endPrimitive]⟩
  | acquireBus => exact ⟨nofun, id⟩
  | acquireTx => exact ⟨id, nofun⟩
  | releaseTx => exact ⟨id, nofun⟩
  | _ => exact ⟨id, id⟩

theorem externalInv_envTurn {s t : State} {e : EnvEvent} (h : ExternalInv s) (ht : EnvTurn s e t) :
    ExternalInv t := by
  cases ht with
  | rx b => exact externalInv_of_noNewHolder h ⟨pushByte_params b s, by simp, by simp⟩
  | acquireBus hp => exact ⟨fun _ => hp, h.2⟩
  | releaseBus => exact ⟨nofun, h.2⟩
  | acquireTx hp => exact ⟨h.1, fun _ => hp⟩
  | releaseTx => exact ⟨h.1, nofun⟩
  | transferExpires c =>
    obtain ⟨_, _, _, -, hexp⟩ := expireCycle_cases c s
    rw [hexp]
    exact h
  | reset =>
    obtain ⟨_, _, -, hreset⟩ := resetMachine_eq s
    rw [hreset]
    exact externalInv_of_noNewHolder h ⟨rfl, lockAfterReset_external, lockAfterReset_external⟩
  | _ => exact h

theorem launch_noNewHolder {s t : State} (ht : Launch s t) : NoNewHolder s t := by
  refine ⟨launch_params ht, ?_⟩
  cases ht with
  | invalidCommand | busFailure | timeout => exact ⟨releaseBus_external, (raiseNack_txLock _ _).symm.trans⟩
  | select op => unfold selectCycle; split <;> exact ⟨id, id⟩
  | _ => exact ⟨id, id⟩

/-- Settles O49: only the two acquiring events give a lock to an external agent, and their guard is the
parameter. -/
theorem stepKeepsExternal : Obligations.StepKeepsExternal := fun _ _ =>
  step_keeps (turn_keeps (fun _ _ h => h)
      (fun _ _ h ht => externalInv_of_noNewHolder h (dispatcherTurn_noNewHolder ht))
      (fun _ _ _ => externalInv_envTurn))
    (fun _ _ h ht => externalInv_of_noNewHolder h (launch_noNewHolder ht))

/-! ## The store (R44, R52) -/

theorem dispatcherTurn_store {s t : State} (ht : DispatcherTurn s t) : CycleStore s t.store := by
  cases ht with
  | deselect c _ hc =>
    obtain ⟨_, _, _, _, _, hm, -, hfin⟩ := finishCycle_cases c s
    rw [hfin]
    exact .of_storeAfter hm hc
  | select op => unfold selectCycle; split <;> exact .inl rfl
  | endPrimitive => exact .inl (releaseBus_store s)
  | _ => exact .inl rfl

/-- An event leaves the store, or ends the cycle in progress, or is the external master's write. -/
theorem envTurn_store {s t : State} {e : EnvEvent} (ht : EnvTurn s e t) :
    CycleStore s t.store ∨ ∃ a v, e = .extStore a v ∧ s.busLock = .heldBy .external ∧
      inDevice s.params a = true ∧ t.store = storeWrite s.store a v := by
  cases ht with
  | rx b => exact .inl (.inl (pushByte_store b s))
  | store a v hl ha => exact .inr ⟨a, v, rfl, hl, ha, rfl⟩
  | transferExpires c hc =>
    obtain ⟨_, _, _, hm, hexp⟩ := expireCycle_cases c s
    rw [hexp]
    exact .inl (.of_storeAfter hm hc)
  | reset =>
    obtain ⟨_, _, hm, hreset⟩ := resetMachine_eq s
    rw [hreset]
    exact .inl hm
  | _ => exact .inl (.inl rfl)

theorem launch_store {s t : State} (ht : Launch s t) : t.store = s.store := by
  cases ht with
  | invalidCommand | busFailure | timeout => exact raiseNack_store _ _
  | select op => unfold selectCycle; split <;> rfl
  | _ => rfl

theorem storeInv_of_cycleStore {s t : State} (h : StoreInv s) (hparams : t.params = s.params)
    (hm : CycleStore s t.store) : StoreInv t := by
  obtain ⟨hwf, hkeys⟩ := h
  rw [StoreInv, hparams]
  rcases hm with hm | ⟨c, a, d, v, -, -, hm⟩ <;> rw [hm]
  · exact ⟨hwf, hkeys⟩
  · exact ⟨deviceWrite_wf _ _ _ _ _ hwf, deviceWrite_keys _ _ _ _ _ hkeys⟩

theorem storeInv_envTurn {s t : State} {e : EnvEvent} (h : StoreInv s) (ht : EnvTurn s e t) :
    StoreInv t := by
  rcases envTurn_store ht with hm | ⟨a, v, -, -, ha, hm⟩
  · exact storeInv_of_cycleStore h (envTurn_params ht) hm
  · obtain ⟨hwf, hkeys⟩ := h
    rw [StoreInv, envTurn_params ht, hm]
    refine ⟨storeWrite_wf _ a v hwf, fun c hmem => ?_⟩
    rcases mem_storeInsert hmem with rfl | hold
    · exact (inDevice_iff _ _).1 ha
    · exact hkeys c hold

/-- Settles O50: the store is written by the end of a bus cycle and by the external master alone, both
times inside the device. -/
theorem stepKeepsStoreForm : Obligations.StepKeepsStoreForm := fun _ _ =>
  step_keeps (turn_keeps (fun _ _ h => h)
      (fun _ _ h ht => storeInv_of_cycleStore h (dispatcherTurn_params ht) (dispatcherTurn_store ht))
      (fun _ _ _ => storeInv_envTurn))
    (fun _ _ h ht => storeInv_of_cycleStore h (launch_params ht) (.inl (launch_store ht)))

end Sys2Proof.Proofs.Locks

/-! The plan and the response buffer (10_state section 4, R57; 45_response_sender R214): every response
that SCFD chooses is one it can send, so nothing stops it (60_exceptions R220). -/

namespace Sys2Proof.Proofs.Responding
open Sys2Proof Sys2Proof.Machine Sys2Proof.Laws Sys2Proof.Safety Sys2Proof.Proofs.Encoding
  Sys2Proof.Proofs.CommandDispatcher Sys2Proof.Proofs.Steps Sys2Proof.Proofs.Locks

/-! ## The plan (R32, R57) -/

/-- The plans of `PlanInv`, by how they came about. -/
theorem planInv_iff (s : State) : PlanInv s ↔
    (s.busStatus = .timedOut → s.params.busWaitLimit.isSome = true) ∧
    ((∃ e, s.plan = .reply Config.codeNack [e] ∧ errorCodeSent s.params e = true) ∨
      ∃ prim rule, s.plan = .bus prim rule ∧ BusPlan prim rule) := by
  unfold PlanInv
  refine and_congr_right fun _ => ?_
  constructor
  · intro h
    split at h
    case h_1 code payload hplan =>
      obtain ⟨rfl, e, rfl, he⟩ := h
      exact .inl ⟨e, hplan, he⟩
    case h_2 a n hplan => subst h; exact .inr ⟨_, _, hplan, .readByte a⟩
    case h_3 a n m hplan =>
      obtain ⟨rfl, hn⟩ := h
      exact .inr ⟨_, _, hplan, .readAll a hn⟩
    case h_4 a n expected hplan =>
      obtain ⟨rfl, hn⟩ := h
      exact .inr ⟨_, _, hplan, .verify a hn⟩
    case h_5 a data hplan => exact .inr ⟨_, _, hplan, .write a h⟩
    case h_6 => exact h.elim
  · rintro (⟨e, hplan, he⟩ | ⟨prim, rule, hplan, hbus⟩)
    · rw [hplan]; exact ⟨rfl, e, rfl, he⟩
    · rw [hplan]
      cases hbus with
      | readByte => rfl
      | readAll a hn => exact ⟨rfl, hn⟩
      | verify a hlen => exact ⟨rfl, hlen⟩
      | write a hlen => exact hlen

theorem planInv_of_same {s t : State} (h : PlanInv s) (hparams : t.params = s.params)
    (hplan : t.plan = s.plan)
    (hstatus : t.busStatus = .timedOut → s.busStatus = .timedOut ∨ s.params.busWaitLimit.isSome = true) :
    PlanInv t := by
  rw [planInv_iff] at h ⊢
  rw [hparams, hplan]
  exact ⟨fun ht => (hstatus ht).elim h.1 id, h.2⟩

/-! ## The response chosen (R147, R214) -/

theorem ruleResponse_sendable (p : Params) {prim : Primitive} {rule : ReplyRule}
    (h : BusPlan prim rule) (data : Buf) :
    Sendable p (ruleResponse rule data).1 (ruleResponse rule data).2 := by
  cases h with
  | readByte => exact .inr (.inr (.inl ⟨rfl, rfl⟩))
  | readAll _ hn =>
    exact .inr (.inr (.inr (.inl ⟨rfl, by simp [ruleResponse, bufPrefix]; omega⟩)))
  | verify _ _ =>
    rw [ruleResponse]
    split
    · exact .inr (.inr (.inr (.inr (.inl ⟨rfl, rfl⟩))))
    · exact .inr (.inr (.inr (.inr (.inr ⟨rfl, rfl⟩))))
  | write => exact .inl ⟨rfl, rfl⟩

theorem errorCodeSent_busFailure (p : Params) : errorCodeSent p Config.errBusFailure = true := by
  simp [errorCodeSent]

theorem errorCodeSent_invalidCommand (p : Params) : errorCodeSent p Config.errInvalidCommand = true := by
  simp [errorCodeSent]

theorem sendable_nack {p : Params} {e : Byte} (he : errorCodeSent p e = true) :
    Sendable p Config.codeNack [e] := .inr (.inl ⟨rfl, e, rfl, he⟩)

theorem chooseResponse_sendable {s : State} (h : PlanInv s) :
    Sendable s.params (chooseResponse s).1 (chooseResponse s).2 := by
  obtain ⟨hlim, ⟨e, hplan, he⟩ | ⟨prim, rule, hplan, hbus⟩⟩ := (planInv_iff s).1 h
  · simp only [chooseResponse, hplan]
    exact sendable_nack he
  · cases hst : s.busStatus <;> simp only [chooseResponse, hplan, hst]
    · exact ruleResponse_sendable _ hbus _
    · exact sendable_nack (errorCodeSent_busFailure _)
    · exact sendable_nack (errorCodeSent_timeout (hlim hst))

theorem sendable_payload_length {p : Params} {code : Byte} {payload : List Byte}
    (h : Sendable p code payload) : payload.length ≤ 246 := by
  rcases h with ⟨-, rfl⟩ | ⟨-, e, rfl, -⟩ | ⟨-, hp⟩ | ⟨-, hp⟩ | ⟨-, rfl⟩ | ⟨-, rfl⟩
  · simp
  · simp
  · omega
  · exact hp
  · simp
  · simp

/-! ## The response buffer (R33, R35, R210) -/

/-- The frame of a sendable response is in the response buffer. -/
def HoldsResponse (s : State) : Prop :=
  ∃ code payload, Sendable s.params code payload ∧ s.respLen = payload.length + 4 ∧
    bufPrefix s.respBuf s.respLen = buildFrame code payload

theorem holdsResponse_respondWith {code : Byte} {payload : List Byte} {s : State}
    (h : Sendable s.params code payload) : HoldsResponse (respondWith code payload s) := by
  have hlen := sendable_payload_length h
  refine ⟨code, payload, h, buildFrame_length code payload, bufPrefix_overwrite _ _ ?_⟩
  rw [buildFrame_length]
  omega

theorem respInv_of_dispState {s : State}
    (h : ¬(s.dispState = .txAcquire ∨ s.dispState = .txRun ∨ s.dispState = .finish)) : RespInv s :=
  fun hd => absurd hd h

theorem respInv_respondWith {code : Byte} {payload : List Byte} {s : State}
    (h : Sendable s.params code payload) : RespInv (respondWith code payload s) :=
  fun _ => ⟨holdsResponse_respondWith h, fun hne => absurd rfl hne⟩

theorem respInv_of_same {s t : State} (h : RespInv s) (hparams : t.params = s.params)
    (hd : t.dispState = s.dispState) (hbuf : t.respBuf = s.respBuf) (hlen : t.respLen = s.respLen)
    (hindex : t.txIndex = s.txIndex) : RespInv t := by
  unfold RespInv
  rw [hparams, hd, hbuf, hlen, hindex]
  exact h

/-- The two invariants of O51. -/
def ResponsesInv (s : State) : Prop := PlanInv s ∧ RespInv s

theorem responsesInv_dispatcherTurn {s t : State} (h : ResponsesInv s) (ht : DispatcherTurn s t) :
    ResponsesInv t := by
  obtain ⟨hplan, hresp⟩ := h
  cases ht with
  | endSettle => exact ⟨hplan, hresp⟩
  | busOut => exact ⟨hplan, hresp⟩
  | busIn => exact ⟨hplan, hresp⟩
  | deselect c =>
    obtain ⟨_, _, _, _, _, -, hstatus, hfin⟩ := finishCycle_cases c s
    rw [hfin]
    refine ⟨planInv_of_same hplan rfl rfl fun ht => .inl ?_, hresp⟩
    rcases hstatus with rfl | rfl
    · exact ht
    · cases ht
  | toValidate => exact ⟨hplan, respInv_of_dispState (by simp)⟩
  | toDecode => exact ⟨hplan, respInv_of_dispState (by simp)⟩
  | drop => exact ⟨hplan, respInv_of_dispState (by simp [dropFrame])⟩
  | acquireBus =>
    exact ⟨planInv_of_same hplan rfl rfl nofun, respInv_of_dispState (by simp [acquireBus])⟩
  | select op => unfold selectCycle; split <;> exact ⟨hplan, hresp⟩
  | endPrimitive =>
    exact ⟨planInv_of_same hplan (releaseBus_params s) (releaseBus_plan s)
      fun ht => .inl ((releaseBus_busStatus s).symm.trans ht),
      respInv_of_dispState (by simp [endPrimitive])⟩
  | respond => exact ⟨hplan, respInv_respondWith (chooseResponse_sendable hplan)⟩
  | acquireTx _ _ hd => exact ⟨hplan, fun _ => ⟨(hresp (.inl hd)).1, fun _ => Nat.zero_le _⟩⟩
  | emit _ _ hd hi => exact ⟨hplan, fun _ => ⟨(hresp (.inr (.inl hd))).1, fun _ => hi⟩⟩
  | releaseTx _ _ hd =>
    obtain ⟨hframe, hindex⟩ := hresp (.inr (.inl hd))
    exact ⟨hplan, fun _ => ⟨hframe, fun _ => hindex (by simp [hd])⟩⟩
  | finish => exact ⟨hplan, respInv_of_dispState (by simp [endCycle])⟩
  | stay => exact ⟨hplan, hresp⟩

/-- The plan that the model has at reset is a Nack that is sent (log 9). -/
theorem planInv_reset : PlanInv State.reset := ⟨nofun, rfl, _, rfl, rfl⟩

theorem responsesInv_envTurn {s t : State} {e : EnvEvent} (h : ResponsesInv s) (ht : EnvTurn s e t) :
    ResponsesInv t := by
  obtain ⟨hplan, hresp⟩ := h
  cases ht with
  | rx b =>
    exact ⟨planInv_of_same hplan (pushByte_params b s) (pushByte_plan b s)
        fun ht => .inl ((pushByte_busStatus b s).symm.trans ht),
      respInv_of_same hresp (pushByte_params b s) (pushByte_dispState b s) (pushByte_respBuf b s)
        (pushByte_respLen b s) (pushByte_txIndex b s)⟩
  | waitExpires _ hlim =>
    exact ⟨planInv_of_same hplan rfl rfl fun _ => .inr hlim, respInv_of_dispState (by simp)⟩
  | transferExpires c =>
    obtain ⟨_, _, _, -, hexp⟩ := expireCycle_cases c s
    rw [hexp]
    exact ⟨planInv_of_same hplan rfl rfl nofun, hresp⟩
  | reset =>
    obtain ⟨_, _, -, hreset⟩ := resetMachine_eq s
    rw [hreset]
    exact ⟨⟨nofun, rfl, _, rfl, errorCodeSent_invalidCommand _⟩, respInv_of_dispState nofun⟩
  | _ => exact ⟨hplan, hresp⟩

theorem planInv_planBus {s : State} (h : PlanInv s) {prim : Primitive} {rule : ReplyRule}
    (hbus : BusPlan prim rule) : PlanInv (planBus prim rule s) :=
  (planInv_iff _).2 ⟨h.1, .inr ⟨prim, rule, rfl, hbus⟩⟩

theorem planInv_raiseNack {s : State} (h : s.busStatus = .timedOut → s.params.busWaitLimit.isSome = true)
    {e : Byte} (he : errorCodeSent s.params e = true) : PlanInv (raiseNack e s) := by
  rw [planInv_iff, raiseNack_busStatus, raiseNack_params]
  exact ⟨h, .inl ⟨e, rfl, he⟩⟩

theorem responsesInv_launch {s t : State} (h : ResponsesInv s) (ht : Launch s t) : ResponsesInv t := by
  obtain ⟨hplan, hresp⟩ := h
  have hraised (e : Byte) (u : State) : RespInv (raiseNack e u) := respInv_of_dispState (by simp)
  cases ht with
  | plan _ _ _ _ _ _ _ _ hbus =>
    exact ⟨planInv_planBus hplan hbus, respInv_of_dispState (by simp [planBus])⟩
  | invalidCommand =>
    refine ⟨planInv_raiseNack ?_ (errorCodeSent_invalidCommand _), hraised _ _⟩
    exact hplan.1
  | busFailure => exact ⟨planInv_raiseNack (by simp) (errorCodeSent_busFailure _), hraised _ _⟩
  | timeout hlim =>
    refine ⟨planInv_raiseNack ?_ ?_, hraised _ _⟩
    · exact fun _ => hlim
    · exact errorCodeSent_timeout hlim
  | respond _ _ _ _ _ hsend => exact ⟨hplan, respInv_respondWith hsend⟩
  | select op => unfold selectCycle; split <;> exact ⟨hplan, hresp⟩
  | drop => exact ⟨hplan, respInv_of_dispState (by simp [dropFrame])⟩

/-- Settles O51: a plan comes from a decoded request or a raised error, and the response buffer is filled
from the plan or from a response that ran. -/
theorem stepKeepsResponses : Obligations.StepKeepsResponses := fun _ _ hplan hresp =>
  step_keeps (P := ResponsesInv) (turn_keeps (fun _ _ h => h) (fun _ _ => responsesInv_dispatcherTurn)
    (fun _ _ _ => responsesInv_envTurn)) (fun _ _ => responsesInv_launch) ⟨hplan, hresp⟩

/-! ## Reset (R250) -/

/-- Settles O46: each invariant is evaluated on the record `State.reset`. -/
theorem resetInvariants : Obligations.ResetInvariants := by
  refine ⟨⟨fun _ => rfl, nofun⟩, nofun, ?locks, ⟨nofun, nofun⟩, ⟨rfl, nofun⟩, planInv_reset,
    respInv_of_dispState nofun⟩
  case locks => exact ⟨by decide, by decide, by decide, nofun, nofun⟩

/-! ## Nothing stops SCFD (R220) -/

/-- A response that SCFD can send is decoded and runs from its built frame. -/
theorem exec_of_sendable {s : State} {code : Byte} {payload : List Byte}
    (h : Sendable s.params code payload) : ∃ i, decodeResponse code payload = .instr i ∧
      exec i s = .next (runCycle (respondWith code payload s)) := by
  rcases h with ⟨rfl, rfl⟩ | ⟨rfl, e, rfl, he⟩ | ⟨rfl, hp⟩ | ⟨rfl, hp⟩ | ⟨rfl, rfl⟩ | ⟨rfl, rfl⟩
  · exact ⟨.ack, rfl, rfl⟩
  · exact ⟨.nack e, rfl, by rw [exec_nack, if_pos he]⟩
  · obtain ⟨d, rfl⟩ := List.length_eq_one_iff.1 hp
    exact ⟨.readByteResult d, rfl, rfl⟩
  · exact ⟨.readAllResult payload, by rw [decodeResponse_readAllResult, if_pos (by exact hp)], rfl⟩
  · exact ⟨.verifyOk, rfl, rfl⟩
  · exact ⟨.verifyFail, rfl, rfl⟩

/-- What is fetched is a turn, or an instruction that runs in any state with the parameters `p`. -/
def Runs (p : Params) (f : Fetch) : Prop :=
  f = .advance ∨ ∃ i, f = .run i ∧ ∀ s : State, s.params = p → ∃ t, exec i s = .next t

theorem runs_response {s : State} (h : PlanInv s) : ∃ i,
    decodeResponse (chooseResponse s).1 (chooseResponse s).2 = .instr i ∧
    ∀ u : State, u.params = s.params → ∃ t, exec i u = .next t := by
  have hsend := chooseResponse_sendable h
  obtain ⟨i, hi, -⟩ := exec_of_sendable hsend
  refine ⟨i, hi, fun u hu => ?_⟩
  obtain ⟨j, hj, hexec⟩ := exec_of_sendable (s := u) (hu ▸ hsend)
  obtain rfl : i = j := by simpa [hi] using hj
  exact ⟨_, hexec⟩

theorem runs_fetchDispatcher {s : State} (h : PlanInv s) : Runs s.params (fetchDispatcher s) := by
  by_cases hbusy : (s.settling || s.cycle.isSome) = true
  · exact .inl (fetchDispatcher_of_busy hbusy)
  simp only [Bool.or_eq_true, not_or, Bool.not_eq_true, Option.isSome_eq_false_iff,
    Option.isNone_iff_eq_none] at hbusy
  obtain ⟨hset, hc⟩ := hbusy
  cases hd : s.dispState with
  | idle | busAcquire | txAcquire | txRun | finish =>
    exact .inl (fetchDispatcher_of_waiting hset hc (by simp [hd]))
  | validate =>
    by_cases hf : firstFailure (slotFrame s) = some .badChecksum
    · exact .inr ⟨_, fetchDispatcher_of_bad_checksum hset hc hd hf, fun _ _ => ⟨_, rfl⟩⟩
    · exact .inl (fetchDispatcher_of_not_bad_checksum hset hc hd hf)
  | decode =>
    cases hi : slotDecoded s with
    | instr i =>
      obtain ⟨hreq, -⟩ := decodeCommand_wellFormed (framePayload_slotFrame_length s) hi
      refine .inr ⟨i, fetchDispatcher_of_request hset hc hd hi, fun u _ => ?_⟩
      exact exec_request_next hreq u
    | reject r => exact .inr ⟨_, fetchDispatcher_of_rejected hset hc hd hi, fun _ _ => ⟨_, rfl⟩⟩
  | busRun =>
    cases ho : nextOp s with
    | some op =>
      refine .inr ⟨_, fetchDispatcher_of_nextOp hset hc hd ho, fun _ _ => ?_⟩
      cases op <;> exact ⟨_, rfl⟩
    | none =>
      by_cases hb : s.busStatus = .fail
      · exact .inr ⟨_, fetchDispatcher_of_failure hset hc hd ho hb, fun _ _ => ⟨_, rfl⟩⟩
      · exact .inl (fetchDispatcher_of_primitiveEnd hset hc hd ho hb)
  | respond =>
    obtain ⟨i, hi, hexec⟩ := runs_response h
    exact .inr ⟨i, fetchDispatcher_of_response hset hc hd hi, hexec⟩

/-- An event is a turn, but for the expiry of the wait, which raises Timeout only under its limit. -/
theorem runs_fetch {s : State} (h : PlanInv s) : Runs s.params (fetch s) := by
  by_cases hn : DispatcherNext s
  · rw [fetch_of_dispatcherNext hn]
    exact runs_fetchDispatcher h
  obtain ⟨e, he⟩ := exists_event_of_not_dispatcherNext hn
  by_cases hw : e = .waitExpires ∧ waitExpiryEnabled s = true
  · obtain ⟨rfl, hw⟩ := hw
    refine .inr ⟨.timeout, fetch_of_waitExpires he hw, fun u hu => ?_⟩
    simp only [waitExpiryEnabled, Bool.and_eq_true, decide_eq_true_eq] at hw
    exact ⟨_, by rw [exec_timeout, hu, if_pos hw.2]⟩
  · exact .inl (fetch_of_event he hw)

/-- Settles O52: whatever is fetched is a turn or runs, since each response chosen can be sent and a wait
expires only under BUS_WAIT_LIMIT. -/
theorem nothingStops : Obligations.NothingStops := by
  intro s h
  rcases runs_fetch h with hf | ⟨i, hf, hexec⟩
  · exact ⟨_, step_of_fetch_advance hf⟩
  · rw [step_of_fetch_run hf]
    refine hexec _ ?_
    rw [prepare]
    split <;> rfl

end Sys2Proof.Proofs.Responding

/-! What single turns do to the trace, the locks and the store (10_state section 5, 20_memory section 4,
43_bus_gateway R193, 70_reset_and_hazards section 1). -/

namespace Sys2Proof.Proofs.Turns
open Sys2Proof Sys2Proof.Machine Sys2Proof.Laws Sys2Proof.Safety Sys2Proof.Proofs.Steps
  Sys2Proof.Proofs.Locks Sys2Proof.Proofs.CommandDispatcher

/-! ## Events and the locks they need (R36, R37, R182) -/

/-- `t` has the events of `s` and new ones: bus events only with `bus_lock` held by the dispatcher, TX bytes
only with `tx_lock` held by it. -/
def EmitsUnderLock (s t : State) : Prop :=
  ∃ es, t.trace = s.trace ++ es ∧ (∀ o ∈ es, isBusEvent o = true → s.busLock = .heldBy .dispatcher) ∧
    ∀ b, Obs.tx b ∈ es → s.txLock = .heldBy .dispatcher

section
variable {s t : State}

theorem emitsUnderLock_nothing (h : t.trace = s.trace) : EmitsUnderLock s t :=
  ⟨[], by simpa using h, nofun, nofun⟩

/-- Events of which none is a TX byte, under `bus_lock`. -/
theorem emitsUnderLock_bus {es : List Obs} (h : t.trace = s.trace ++ es)
    (hlock : s.busLock = .heldBy .dispatcher) (htx : ∀ b, Obs.tx b ∉ es) : EmitsUnderLock s t :=
  ⟨es, h, fun _ _ _ => hlock, fun b hb => absurd hb (htx b)⟩

/-- The event of a lock that is taken or released. -/
theorem emitsUnderLock_lock {o : Obs} (h : t.trace = s.trace ++ [o]) (hbus : isBusEvent o = false)
    (htx : ∀ b, Obs.tx b ≠ o) : EmitsUnderLock s t := by
  refine ⟨[o], h, fun o' ho' hbus' => ?_, fun b hb => absurd (List.mem_singleton.1 hb) (htx b)⟩
  obtain rfl := List.mem_singleton.1 ho'
  simp [hbus] at hbus'

theorem emitsUnderLock_dispatcherTurn (h : LockInv s) (ht : DispatcherTurn s t) :
    EmitsUnderLock s t := by
  obtain ⟨hbusRun, htxRun, -, hcycle, hsettle⟩ := h
  have hheld {c : BusCycle} (hc : s.cycle = some c) : s.busLock = .heldBy .dispatcher :=
    (hcycle (by simp [hc])).1
  cases ht with
  | endSettle hset => exact emitsUnderLock_bus rfl (hsettle hset) (by simp)
  | busOut c _ hc => exact emitsUnderLock_bus rfl (hheld hc) (by simp)
  | busIn c _ _ _ _ hc => exact emitsUnderLock_bus rfl (hheld hc) (by simp)
  | deselect c _ hc =>
    obtain ⟨_, _, _, _, _, -, -, hfin⟩ := finishCycle_cases c s
    rw [hfin]
    exact emitsUnderLock_bus rfl (hheld hc) (by simp)
  | acquireBus => exact emitsUnderLock_lock rfl rfl nofun
  | select op _ _ hd =>
    have hlock := hbusRun.2 hd
    rw [selectCycle, if_pos hlock]
    exact emitsUnderLock_bus rfl hlock (by simp)
  | endPrimitive _ _ hd =>
    have hlock := hbusRun.2 hd
    rw [endPrimitive, releaseBus, if_pos hlock]
    exact emitsUnderLock_lock rfl rfl nofun
  | acquireTx => exact emitsUnderLock_lock rfl rfl nofun
  | emit _ _ hd =>
    refine ⟨_, rfl, fun o ho hbus => ?_, fun _ _ => htxRun.2 hd⟩
    obtain rfl := List.mem_singleton.1 ho
    cases hbus
  | releaseTx => exact emitsUnderLock_lock rfl rfl nofun
  | _ => exact emitsUnderLock_nothing rfl

theorem emitsUnderLock_envTurn {e : EnvEvent} (h : LockInv s) (ht : EnvTurn s e t) :
    EmitsUnderLock s t := by
  obtain ⟨-, -, hcs, hcycle, -⟩ := h
  cases ht with
  | rx b => exact emitsUnderLock_nothing (pushByte_trace b s)
  | acquireBus | releaseBus | acquireTx | releaseTx => exact emitsUnderLock_lock rfl rfl nofun
  | transferExpires c hc =>
    obtain ⟨_, _, _, -, hexp⟩ := expireCycle_cases c s
    rw [hexp]
    exact emitsUnderLock_bus rfl (hcycle (by simp [hc])).1 (by simp)
  | reset =>
    obtain ⟨_, _, -, hreset⟩ := resetMachine_eq s
    rw [hreset]
    by_cases hsel : s.cs = .asserted
    · exact emitsUnderLock_bus rfl (hcycle (hcs.1 hsel)).1 (by simp [hsel])
    · exact emitsUnderLock_nothing (by simp [hsel])
  | _ => exact emitsUnderLock_nothing rfl

end

/-- Settles O53: each event stands in one case of a turn, whose guard says who holds the lock. -/
theorem eventsUnderLock : Obligations.EventsUnderLock := by
  intro s h
  rcases turn_cases s with ⟨-, ht⟩ | ⟨-, ht⟩ | ⟨e, -, ht⟩
  · exact ht ▸ emitsUnderLock_dispatcherTurn h (dispatcherTurn_cases s)
  · exact ht ▸ emitsUnderLock_dispatcherTurn (s := { s with schedule := s.schedule.tail }) h
      (dispatcherTurn_cases _)
  · exact ht ▸ emitsUnderLock_envTurn (s := { s with schedule := s.schedule.tail }) h (envAct_cases e _)

/-! ## `bus_lock` (R36, R181, R194) -/

/-- What a turn can do to `bus_lock`. -/
inductive BusLockTurn (s t : State) : Prop where
  | kept (h : t.busLock = s.busLock)
  | taken (o : Owner) (hs : s.busLock = .free) (ht : t.busLock = .heldBy o)
  | ended (hs : s.busLock = .heldBy .dispatcher) (ht : t.busLock = .free) (hd : s.dispState = .busRun)
      (ho : nextOp s = none) (hc : s.cycle = none) (hset : s.settling = false)
  | released (hs : s.busLock = .heldBy .external) (ht : t.busLock = .free)
      (he : s.schedule.head? = some (.env .extReleaseBus))
  | reset (hs : s.busLock = .heldBy .dispatcher) (ht : t.busLock = .free)
      (he : s.schedule.head? = some (.env .reset))

theorem busLockTurn_dispatcherTurn {s t : State} (r : List Turn)
    (ht : DispatcherTurn { s with schedule := r } t) : BusLockTurn s t := by
  cases ht with
  | deselect c =>
    obtain ⟨_, _, _, _, _, -, -, hfin⟩ := finishCycle_cases c { s with schedule := r }
    exact .kept (by rw [hfin])
  | acquireBus _ _ _ hl => exact .taken .dispatcher hl rfl
  | select op => exact .kept (by unfold selectCycle; split <;> rfl)
  | endPrimitive hset hc hd ho =>
    by_cases hl : s.busLock = .heldBy .dispatcher
    · refine .ended hl ?_ hd ho hc hset
      exact (releaseBus_busLock _).trans (if_pos hl)
    · exact .kept ((releaseBus_busLock _).trans (if_neg hl))
  | _ => exact .kept rfl

theorem busLockTurn_envTurn {s t : State} {e : EnvEvent} {r : List Turn}
    (he : s.schedule.head? = some (.env e)) (ht : EnvTurn { s with schedule := r } e t) :
    BusLockTurn s t := by
  cases ht with
  | rx b => exact .kept (pushByte_busLock b _)
  | acquireBus _ hl => exact .taken .external hl rfl
  | releaseBus hl => exact .released hl rfl he
  | transferExpires c =>
    obtain ⟨_, _, _, -, hexp⟩ := expireCycle_cases c { s with schedule := r }
    exact .kept (by rw [hexp])
  | reset =>
    obtain ⟨_, _, -, hreset⟩ := resetMachine_eq { s with schedule := r }
    by_cases hl : s.busLock = .heldBy .dispatcher
    · exact .reset hl (by rw [hreset]; exact if_pos hl) he
    · exact .kept (by rw [hreset]; exact if_neg hl)
  | _ => exact .kept rfl

theorem busLockTurn (s : State) : BusLockTurn s (turn s) := by
  rcases turn_cases s with ⟨-, ht⟩ | ⟨-, ht⟩ | ⟨e, he, ht⟩
  · exact ht ▸ busLockTurn_dispatcherTurn s.schedule (dispatcherTurn_cases s)
  · exact ht ▸ busLockTurn_dispatcherTurn _ (dispatcherTurn_cases _)
  · exact ht ▸ busLockTurn_envTurn he (envAct_cases e _)

/-- Settles O54: read off the five things a turn can do to the lock. -/
theorem busLockDiscipline : Obligations.BusLockDiscipline := by
  intro s
  cases busLockTurn s with
  | kept h => simp_all
  | taken o hs ht => simp_all
  | ended hs ht hd ho hc hset => simp_all
  | released hs ht he => simp_all
  | reset hs ht he => simp_all

/-! ## The store (R52, R59, R68) -/

theorem turn_store (s : State) : CycleStore s (turn s).store ∨
    ∃ a v, s.schedule.head? = some (.env (.extStore a v)) ∧ s.busLock = .heldBy .external ∧
      (turn s).store = storeWrite s.store a v := by
  rcases turn_cases s with ⟨-, ht⟩ | ⟨-, ht⟩ | ⟨e, he, ht⟩
  · exact .inl (ht ▸ dispatcherTurn_store (dispatcherTurn_cases s))
  · exact .inl (ht ▸ dispatcherTurn_store (s := { s with schedule := s.schedule.tail })
      (dispatcherTurn_cases _))
  · rcases envTurn_store (envAct_cases e { s with schedule := s.schedule.tail }) with
      hm | ⟨a, v, rfl, hl, -, hm⟩
    · exact .inl (ht ▸ hm)
    · exact .inr ⟨a, v, he, hl, ht ▸ hm⟩

/-- Settles O55: a byte that neither the cycle in progress reaches nor the external master writes is read
as before. -/
theorem whoChangesTheStore : Obligations.WhoChangesTheStore := by
  intro s b hchanged
  rcases turn_store s with hm | ⟨a, v, he, hl, hm⟩
  · refine .inl ?_
    by_contra hnone
    refine hchanged (hm.storeRead_other fun c a d hc hop hb => hnone ⟨c, a, d, hc, hop, hb⟩)
  · by_cases hab : b = a
    · exact .inr ⟨v, hab ▸ he, hl⟩
    · rw [hm, storeRead_write_other _ _ hab] at hchanged
      exact absurd rfl hchanged

/-! ## Reset (R250, R251, R253) -/

theorem txBytes_append (es fs : List Obs) : txBytes (es ++ fs) = txBytes es ++ txBytes fs := by
  simp [txBytes]

theorem lockAfterReset_eq (l : Lock) :
    lockAfterReset l = if l = .heldBy .external then .heldBy .external else .free := by
  rcases l with _ | ⟨_ | _⟩ <;> rfl

/-- Settles O56: all but the store's and the trace's clause are fields of the reset state. -/
theorem resetAtAnyMoment : Obligations.ResetAtAnyMoment := by
  rintro s _ rfl
  obtain ⟨m, n, hm, hreset⟩ := resetMachine_eq s
  have hact : envAct .reset s = _ := hreset
  rw [hact, ← lockAfterReset_eq, ← lockAfterReset_eq]
  refine ⟨rfl, rfl, rfl, rfl, rfl, rfl, rfl, rfl, rfl, fun b hb => hm.storeRead_other hb, ?_⟩
  rw [txBytes_append]
  split <;> exact List.append_nil _

/-! ## The expiry of a transfer (R193 ii) -/

theorem expireCycle_dataBuf_of_read {c : BusCycle} {a : Half} {n : Nat} (hop : c.op = .read a n)
    (s : State) : (expireCycle c s).dataBuf = bufOverwrite s.dataBuf (freeBytes n s.draws) := by
  obtain ⟨op, p, st⟩ := c
  cases hop
  rfl

theorem turn_of_event {s : State} {e : EnvEvent} (hs : s.schedule = [.env e]) :
    turn s = envAct e { s with schedule := [] } := by
  simp [turn, hs]

/-- Settles O44: the turn is the expiry of the cycle in progress, or has no effect. -/
theorem transferExpiry : Obligations.TransferExpiry := by
  intro s c hs hc
  have hstep : step s = .next (envAct .transferExpires { s with schedule := [] }) := by
    rw [step_of_fetch_advance (fetch_of_event (e := .transferExpires) (by rw [hs]; rfl) nofun),
      turn_of_event hs]
  constructor
  · intro hlim
    have hact : envAct .transferExpires { s with schedule := [] } =
        expireCycle c { s with schedule := [] } := by
      simp [envAct, hc, hlim]
    obtain ⟨b, m, n, hm, hexp⟩ := expireCycle_cases c { s with schedule := [] }
    refine ⟨_, hstep, ?_⟩
    rw [hact]
    have hdata (a : Half) (n : Nat) (hop : c.op = .read a n) := expireCycle_dataBuf_of_read hop
      { s with schedule := [] }
    rw [hexp] at hdata ⊢
    refine ⟨rfl, rfl, rfl, rfl, rfl, hdata, fun b hb => ?store⟩
    case store =>
      refine (CycleStore.of_storeAfter hm hc).storeRead_other fun c' a d hc' hop => hb a d ?_
      obtain rfl : c = c' := by simpa [hc] using hc'
      exact hop
  · intro hlim
    rw [hstep]
    simp [envAct, hc, hlim]

end Sys2Proof.Proofs.Turns

/-! Responses, Nacks and waits (42_command_dispatcher section 4, 45_response_sender, 60_exceptions): what
is sent when the way out is free, and what waits when a lock is held by another. -/

namespace Sys2Proof.Proofs.Sending
open Sys2Proof Sys2Proof.Machine Sys2Proof.Laws Sys2Proof.Safety Sys2Proof.Proofs.Encoding
  Sys2Proof.Proofs.CommandDispatcher Sys2Proof.Proofs.Steps Sys2Proof.Proofs.Turns

/-! ## Responses (R87, R91, R148, R210) -/

/-- Settles O26: the run from each response's built frame. -/
theorem responsesSent : Obligations.ResponsesSent := by
  intro d data s hq hlen
  have hsent (code : Byte) {payload : List Byte} (hp : payload.length ≤ 252) :
      Host.Outcome.next (φ := Fault) (ρ := Refusal) (runCycle (respondWith code payload s)) =
        .next (responded code payload s) := by
    rw [runCycle_respondWith code payload s hq hp]
  exact ⟨hsent _ (by simp), hsent _ (by simp), hsent _ (by omega), hsent _ (by simp),
    hsent _ (by simp)⟩

theorem errorCodeSent_iff (p : Params) (e : Byte) : errorCodeSent p e = true ↔
    e = 0x01 ∨ e = 0x04 ∨ (e = 0x02 ∧ p.busWaitLimit.isSome = true) := by
  simp only [errorCodeSent, Bool.or_eq_true, Bool.and_eq_true, decide_eq_true_eq, or_assoc]
  rfl

/-- Settles O27: an error code that is sent, and the run from its built frame. -/
theorem nackSent : Obligations.NackSent := by
  intro e s hq he
  rw [exec_nack, if_pos ((errorCodeSent_iff _ e).2 he), runCycle_respondWith _ _ s hq (by simp)]
  rfl

/-- Settles O28: every other code is one that `errorCodeSent` refuses. -/
theorem nackNeverSent : Obligations.NackNeverSent := by
  intro e s h1 h4 h2
  have hnot : ¬errorCodeSent s.params e = true := by
    rw [errorCodeSent_iff]
    rintro (h | h | ⟨h, hlim⟩)
    · exact h1 h
    · exact h4 h
    · simp [h2 h] at hlim
  rw [exec_nack, if_neg hnot]

/-- Settles O29: the row's meaning is the refusal. -/
theorem errorNeverSent : Obligations.ErrorNeverSent := fun _ _ => rfl

/-- Settles O33: the row's meaning is the drop of the frame. -/
theorem checksumSilent : Obligations.ChecksumSilent := fun _ => rfl

/-! ## Raised errors (60_exceptions R222 to R225) -/

theorem nacked_of_not_held {s : State} (h : s.busLock ≠ .heldBy .dispatcher) (e : Byte) :
    nacked e s = responded Config.codeNack [e] { s with plan := .reply Config.codeNack [e] } := by
  rw [nacked, releaseBus, if_neg h]

theorem nacked_of_held {s : State} (h : s.busLock = .heldBy .dispatcher) (e : Byte) :
    nacked e s = responded Config.codeNack [e] { s with
      plan := .reply Config.codeNack [e], busLock := .free, trace := s.trace ++ [.relBus] } := by
  rw [nacked, releaseBus, if_pos h]
  rfl

theorem exec_invalidCommand {s : State} (hq : CanSend s) :
    exec .invalidCommand s = .next (nacked Config.errInvalidCommand s) :=
  congrArg _ (runCycle_raiseNack _ s hq)

theorem exec_busFailure {s : State} (hq : CanSend s) :
    exec .busFailure s = .next (nacked Config.errBusFailure { s with busStatus := .fail }) :=
  congrArg _ (runCycle_raiseNack _ { s with busStatus := .fail } hq)

theorem exec_timeout_of_limit {s : State} (hlim : s.params.busWaitLimit.isSome = true)
    (hq : CanSend s) :
    exec .timeout s = .next (nacked Config.errTimeout { s with busStatus := .timedOut }) := by
  rw [exec_timeout, if_pos hlim]
  exact congrArg _ (runCycle_raiseNack _ { s with busStatus := .timedOut } hq)

/-- Settles O30: the Nack, for each holder of `bus_lock`. -/
theorem invalidCommandNacked : Obligations.InvalidCommandNacked := by
  intro s hq
  rw [exec_invalidCommand hq]
  exact ⟨fun hl => congrArg _ (nacked_of_not_held hl _), fun hl => congrArg _ (nacked_of_held hl _)⟩

/-- Settles O31: the Nack, for each holder of `bus_lock`. -/
theorem busFailureNacked : Obligations.BusFailureNacked := by
  intro s hq
  rw [exec_busFailure hq]
  exact ⟨fun hl => congrArg _ (nacked_of_held (s := { s with busStatus := .fail }) hl _),
    fun hl => congrArg _ (nacked_of_not_held (s := { s with busStatus := .fail }) hl _)⟩

/-- Settles O32: the Nack under the limit, and the refusal without it. -/
theorem timeoutNacked : Obligations.TimeoutNacked := by
  intro s
  constructor
  · intro hq hlim hl
    rw [exec_timeout_of_limit hlim hq]
    exact congrArg _ (nacked_of_not_held (s := { s with busStatus := .timedOut }) hl _)
  · intro hlim
    rw [exec_timeout, if_neg (by simp [hlim])]
    rfl

/-! ## Requests that are answered at once (R145, R158, R204) -/

/-- Settles O20: Unknown raises InvalidCommand whatever its payload. -/
theorem unknownNacked : Obligations.UnknownNacked := by
  intro code payload s hq hl
  have hexec : exec (.unknown code payload) s = .next (runCycle (raiseNack Config.errInvalidCommand
      { s with reqCode := code, reqPlen := payload.length })) := rfl
  rw [hexec, runCycle_raiseNack _ _ (by exact hq), nacked_of_not_held (by exact hl)]
  rfl

theorem not_validProfile {id : Byte} (h : 4 ≤ id.toNat) : ¬validProfile id = true := by
  simp only [validProfile, decide_eq_true_eq, not_lt]
  exact h

/-- Settles O19: neither command makes a bus plan for an index of 4 or more. -/
theorem invalidProfileNacked : Obligations.InvalidProfileNacked := by
  intro id data s hq hid hdata hl
  have hsave : exec (.saveProfile id data) s = .next (runCycle (raiseNack Config.errInvalidCommand
      { s with reqCode := 0x07, reqPlen := 1 + data.length, reqId := id })) :=
    if_neg (not_validProfile hid)
  have hload : exec (.loadProfile id) s = .next (runCycle (raiseNack Config.errInvalidCommand
      { s with reqCode := 0x08, reqPlen := 1, reqId := id })) :=
    if_neg (not_validProfile hid)
  rw [hsave, hload, runCycle_raiseNack _ _ (by exact hq), runCycle_raiseNack _ _ (by exact hq),
    nacked_of_not_held (by exact hl), nacked_of_not_held (by exact hl), hdata]
  exact ⟨rfl, rfl⟩

theorem blockLengthOk_iff (p : List Byte) : blockLengthOk p = true ↔
    4 ≤ p.length ∧ (be16 (byteAt p 2) (byteAt p 3)).toNat = p.length - 4 := by
  simp only [blockLengthOk, Bool.and_eq_true, decide_eq_true_eq]
  rfl

/-- The lengths that `Decode` rejects (R145). -/
theorem decodeCommand_wrongLength {code : Byte} {p : List Byte}
    (h : (code = 0x01 ∧ p.length ≠ 2) ∨ (code = 0x02 ∧ p.length ≠ 3) ∨ (code = 0x03 ∧ p.length ≠ 4) ∨
      ((code = 0x04 ∨ code = 0x06) ∧
        ¬(4 ≤ p.length ∧ (be16 (byteAt p 2) (byteAt p 3)).toNat = p.length - 4)) ∨
      (code = 0x05 ∧ p.length ≠ 2) ∨ (code = 0x07 ∧ p.length ≠ 65) ∨
      (code = 0x08 ∧ p.length ≠ 1)) :
    decodeCommand code p = .reject .payloadLength := by
  rw [← blockLengthOk_iff] at h
  rcases h with ⟨rfl, hp⟩ | ⟨rfl, hp⟩ | ⟨rfl, hp⟩ | ⟨rfl | rfl, hp⟩ | ⟨rfl, hp⟩ | ⟨rfl, hp⟩ | ⟨rfl, hp⟩
  · exact (decodeCommand_readByte p).trans (if_neg hp)
  · exact (decodeCommand_writeByte p).trans (if_neg hp)
  · exact (decodeCommand_readAll p).trans (if_neg hp)
  · exact (decodeCommand_writeAll p).trans (if_neg hp)
  · exact (decodeCommand_verify p).trans (if_neg hp)
  · exact (decodeCommand_clear p).trans (if_neg hp)
  · exact (decodeCommand_saveProfile p).trans (if_neg hp)
  · exact (decodeCommand_loadProfile p).trans (if_neg hp)

/-- Settles O39: the rejected payload makes the step run InvalidCommand on the latched header. -/
theorem wrongLengthNacked : Obligations.WrongLengthNacked := by
  intro s code p hq hl hd hcode hp hwrong
  have hslot : slotDecoded s = .reject .payloadLength := by
    rw [slotDecoded, hcode, hp, decodeCommand_wrongLength hwrong]
  obtain ⟨hs, htr, htl, hc, hset⟩ := hq
  have hfetch : fetch s = .run .invalidCommand :=
    (fetch_of_no_schedule hs).trans (fetchDispatcher_of_rejected hset hc hd hslot)
  have hprep : prepare s = { s with reqCode := code, reqPlen := s.frameLen - 4 } := by
    rw [prepare_of_decode hd, withRequest, hcode, hs, List.tail_nil, ← hs]
  rw [step_of_fetch_run hfetch, hprep, exec_invalidCommand (by exact ⟨hs, htr, htl, hc, hset⟩),
    nacked_of_not_held (by exact hl)]
  rfl

/-! ## Waiting for a lock (R180, R193, R212, R260) -/

/-- A run whose turn changes nothing is left where it waits. -/
theorem runUntil_of_stalled {s : State} (h : turn s = s) (stop : State → Bool) (n : Nat) :
    runUntil stop n s = s :=
  runUntil_invariant (P := (· = s)) (by rintro _ rfl; exact h) stop n s rfl

theorem runCycle_respondWith_of_tx_held {s : State} (hl : s.txLock = .heldBy .external)
    (hs : s.schedule = []) (hc : s.cycle = none) (hset : s.settling = false) (code : Byte)
    (payload : List Byte) : runCycle (respondWith code payload s) = respondWith code payload s := by
  refine runUntil_of_stalled ?_ _ _
  rw [turn_of_no_schedule (by exact hs)]
  simp [dispatcherTurn, respondWith, hset, hc, hl]

/-- Settles O42: with the frame built, every turn waits for `tx_lock`. -/
theorem heldTxLockStalls : Obligations.HeldTxLockStalls := by
  intro d data s hl hs hc hset _
  have hwaits (code : Byte) (payload : List Byte) :
      Host.Outcome.next (φ := Fault) (ρ := Refusal) (runCycle (respondWith code payload s)) =
        .next (respondWith code payload s) := by
    rw [runCycle_respondWith_of_tx_held hl hs hc hset]
  exact ⟨hwaits _ _, hwaits _ _, hwaits _ _, hwaits _ _, hwaits _ _, rfl, rfl, rfl⟩

theorem runCycle_planBus_of_bus_held {s : State} (hl : s.busLock = .heldBy .external)
    (hs : s.schedule = []) (hc : s.cycle = none) (hset : s.settling = false) (prim : Primitive)
    (rule : ReplyRule) : runCycle (planBus prim rule s) = planBus prim rule s := by
  refine runUntil_of_stalled ?_ _ _
  rw [turn_of_no_schedule (by exact hs)]
  simp [dispatcherTurn, planBus, hset, hc, hl]

/-- Settles O41: with the plan made, every turn waits for `bus_lock`. -/
theorem heldBusLockStalls : Obligations.HeldBusLockStalls := by
  intro i s hi hl hs hc hset
  cases exec_request (isRequest_of_usesBus hi) with
  | plan prim rule _ _ hruns =>
    obtain ⟨code, plen, addr, size, id, hexec⟩ := hruns s
    rw [runCycle_planBus_of_bus_held (by exact hl) (by exact hs) (by exact hc) (by exact hset)] at hexec
    exact ⟨_, hexec, rfl, rfl, rfl, rfl, rfl, rfl, rfl⟩
  | invalidCommand hno => simp [hi] at hno

/-- Settles O43: under the limit the step runs Timeout, and without it the event has no effect. -/
theorem waitExpiry : Obligations.WaitExpiry := by
  intro s hs hl hd hc hset htr htl
  have he : s.schedule.head? = some (.env .waitExpires) := by rw [hs]; rfl
  constructor
  · intro hlim
    have hw : waitExpiryEnabled s = true := by simp [waitExpiryEnabled, hd, hlim]
    have hprep : prepare s = { s with schedule := [] } := by
      rw [prepare_of_not_decode (by simp [hd]), hs, List.tail_cons]
    rw [step_of_fetch_run (fetch_of_waitExpires he hw), hprep,
      exec_timeout_of_limit (by exact hlim) (by exact ⟨rfl, htr, htl, hc, hset⟩),
      nacked_of_not_held (by simp [hl])]
    rfl
  · intro hlim
    have hw : waitExpiryEnabled s = false := by simp [waitExpiryEnabled, hlim]
    rw [step_of_fetch_advance (fetch_of_event he (by simp [hw])), turn_of_event hs]
    simp [envAct, waitExpiryEnabled, hlim]

end Sys2Proof.Proofs.Sending

/-! The two bus rows (43_bus_gateway R182 to R190) and the instruction that a step runs (42 R163). -/

namespace Sys2Proof.Proofs.Running
open Sys2Proof Sys2Proof.Machine Sys2Proof.Laws Sys2Proof.Safety Sys2Proof.Proofs.Encoding
  Sys2Proof.Proofs.CommandDispatcher Sys2Proof.Proofs.Steps

/-! ## Bus rows -/

theorem exec_busRead (a : Half) (n : Nat) (s : State) :
    exec (.busRead a n) s = .next (runBusCycle (selectCycle (.read a n) s)) := rfl

theorem exec_busWrite (a : Half) (d : Byte) (s : State) :
    exec (.busWrite a d) s = .next (runBusCycle (selectCycle (.write a d) s)) := rfl

/-- Settles O34: the run of one read cycle, for each status. -/
theorem busReadCycle : Obligations.BusReadCycle := by
  intro a n s hb _ hn
  rw [exec_busRead, runBusCycle_read hb (by omega)]
  exact ⟨fun hst => by rw [hst], fun hst => by rw [hst]⟩

/-- Settles O35: the run of one write cycle, for each status. -/
theorem busWriteCycle : Obligations.BusWriteCycle := by
  intro a d s hb
  rw [exec_busWrite, runBusCycle_write hb]
  exact ⟨fun hst => by rw [hst], fun hst => by rw [hst]⟩

/-- Settles O36: nothing is selected, so the run of the cycle ends at once. -/
theorem noCycleWithoutLock : Obligations.NoCycleWithoutLock := by
  intro a n d s hl hc hset
  have hstop : runBusCycle s = s := runUntil_of_stop (by simp [hc, hset]) _
  have hselect (op : BusOp) : selectCycle op s = s := if_neg hl
  rw [exec_busRead, exec_busWrite, hselect, hselect, hstop]
  exact ⟨rfl, rfl⟩

/-! ## Steps -/

theorem instr_of_decodeFrame {how : Byte → List Byte → Decoded} {f : List Byte} {i : Instr}
    (h : decodeFrame how f = .instr i) : how (frameCode f) (framePayload f) = .instr i := by
  unfold decodeFrame at h
  split at h
  · cases h
  · split at h
    · exact h
    · cases h

theorem nextOp_of_failure {s : State} (hb : s.busStatus = .fail) : nextOp s = none := by
  unfold nextOp
  split <;> simp [hb]

/-- Settles O37: the instruction fetched at each control point, and the state it runs in. -/
theorem stepRunsDecoded : Obligations.StepRunsDecoded := by
  intro i s hn hc hset
  have hrun {j : Instr} (hf : fetchDispatcher s = .run j) : step s = exec j (prepare s) :=
    step_of_fetch_run ((fetch_of_dispatcherNext hn).trans hf)
  refine ⟨fun hd hi => ?_, fun hd hi => ?_, fun op hd ho => ?_, fun hd hb => ?_⟩
  · rw [hrun (fetchDispatcher_of_request hset hc hd (instr_of_decodeFrame hi)),
      prepare_of_decode hd]
    rfl
  · have hresp := instr_of_decodeFrame (show decodeFrame decodeResponse _ = .instr i from hi)
    rw [frameCode_buildFrame, framePayload_buildFrame] at hresp
    rw [hrun (fetchDispatcher_of_response hset hc hd hresp), prepare_of_not_decode (by simp [hd])]
  · rw [hrun (fetchDispatcher_of_nextOp hset hc hd ho), prepare_of_not_decode (by simp [hd])]
  · rw [hrun (fetchDispatcher_of_failure hset hc hd (nextOp_of_failure hb) hb),
      prepare_of_not_decode (by simp [hd])]

end Sys2Proof.Proofs.Running

/-! The requests (42_command_dispatcher R150 to R157): the plan of each, and its answer for each way its
bus cycles can end. -/

namespace Sys2Proof.Proofs.Requests
open Sys2Proof Sys2Proof.Machine Sys2Proof.Laws Sys2Proof.Safety

/-! ## The plan of each request -/

section
variable (a size : Half) (data : List Byte) (d id : Byte) (s : State)

theorem exec_readByte : exec (.readByte a) s = .next (runCycle
    (planBus (.readBlock a 1) .readByteResult { s with reqCode := 0x01, reqPlen := 2, reqAddr := a })) :=
  rfl

theorem exec_writeByte : exec (.writeByte a d) s = .next (runCycle
    (planBus (.writeBlock a [d]) .ack { s with reqCode := 0x02, reqPlen := 3, reqAddr := a })) := rfl

theorem exec_readAll : exec (.readAll a size) s = .next (runCycle
    (planBus (.readBlock a (min size.toNat 246)) (.readAllResult (min size.toNat 246))
      { s with reqCode := 0x03, reqPlen := 4, reqAddr := a,
               reqSize := BitVec.ofNat 16 (min size.toNat 246) })) := by
  rw [← clamp_eq, ← clamp_toNat]
  rfl

theorem exec_writeAll : exec (.writeAll a data) s = .next (runCycle
    (planBus (.writeBlock a data) .ack
      { s with reqCode := 0x04, reqPlen := 4 + data.length, reqAddr := a,
               reqSize := BitVec.ofNat 16 data.length })) := rfl

theorem exec_clear : exec (.clear size) s = .next (runCycle
    (planBus (.writeBlock 0x0000 (List.replicate (min size.toNat 246) 0xFF)) .ack
      { s with reqCode := 0x05, reqPlen := 2, reqSize := BitVec.ofNat 16 (min size.toNat 246) })) := by
  rw [← clamp_eq, ← clamp_toNat]
  rfl

theorem exec_verify : exec (.verify a data) s = .next (runCycle
    (planBus (.readBlock a data.length) (.verify data)
      { s with reqCode := 0x06, reqPlen := 4 + data.length, reqAddr := a,
               reqSize := BitVec.ofNat 16 data.length })) := rfl

variable {id} (hid : id.toNat < 4)
include hid

theorem exec_saveProfile (hdata : data.length = 64) : exec (.saveProfile id data) s = .next (runCycle
    (planBus (.writeBlock (BitVec.ofNat 16 (0x100 + 64 * id.toNat)) data) .ack
      { s with reqCode := 0x07, reqPlen := 65, reqId := id })) := by
  have hvalid : validProfile id = true := decide_eq_true hid
  rw [← profileAddress_eq]
  refine (if_pos hvalid).trans ?_
  rw [hdata]
  rfl

theorem exec_loadProfile : exec (.loadProfile id) s = .next (runCycle
    (planBus (.readBlock (BitVec.ofNat 16 (0x100 + 64 * id.toNat)) 64) (.readAllResult 64)
      { s with reqCode := 0x08, reqPlen := 1, reqId := id })) := by
  have hvalid : validProfile id = true := decide_eq_true hid
  rw [← profileAddress_eq]
  exact if_pos hvalid

end

/-! ## What a block read answers -/

theorem readBlockNow_zero (s : State) (a : Half) : readBlockNow s a 0 = [] := rfl

theorem blockAddr_zero (a : Half) : blockAddr a 0 = a := by simp [blockAddr]

theorem readBlockNow_one (s : State) (a : Half) : readBlockNow s a 1 = [readNow s a] := by
  simp [readBlockNow, deviceReadBlock, readNow, blockAddr_zero]

/-- A block read whose cycle, if it needs one, ends Ok. -/
theorem runCycle_planBus_read {a : Half} {n : Nat} {rule : ReplyRule} {s : State} (hq : Quiet s)
    (hn : n ≤ 248) (hok : n ≠ 0 → nextStatus s = .ok) {code : Byte} {payload : List Byte}
    (hch : ruleResponse rule (bufOverwrite s.dataBuf (readBlockNow s a n)) = (code, payload))
    (hp : payload.length ≤ 252) :
    runCycle (planBus (.readBlock a n) rule s) =
      responded code payload (readDoneOk a n { s with plan := .bus (.readBlock a n) rule }) := by
  by_cases h0 : n = 0
  · subst h0
    rw [readBlockNow_zero, bufOverwrite_nil] at hch
    exact runCycle_planBus_read_zero hq hch hp
  · exact runCycle_planBus_read_ok hq hn h0 (hok h0) hch hp

theorem ruleResponse_readByteResult (b : Buf) (s : State) (a : Half) :
    ruleResponse .readByteResult (bufOverwrite b (readBlockNow s a 1)) = (0x12, [readNow s a]) := by
  rw [ruleResponse, readBlockNow_one, bufGet_overwrite _ _ _ (by simp)]
  rfl

theorem ruleResponse_readAllResult (b : Buf) (s : State) (a : Half) {n : Nat} (hn : n ≤ 256) :
    ruleResponse (.readAllResult n) (bufOverwrite b (readBlockNow s a n)) =
      (0x13, readBlockNow s a n) := by
  rw [ruleResponse, bufPrefix_readBlock _ _ _ _ hn]
  rfl

theorem readBlockNow_length (s : State) (a : Half) (n : Nat) : (readBlockNow s a n).length = n :=
  deviceReadBlock_length _ _ _ _ _

theorem readBlockNow_eq_map (s : State) (a : Half) (n : Nat) :
    readBlockNow s a n = (List.range n).map fun i => readNow s (a + BitVec.ofNat 16 i) := rfl

theorem readBlockNow_eq_iff (s : State) (a : Half) (expected : List Byte) :
    readBlockNow s a expected.length = expected ↔
      ∀ i < expected.length, readNow s (a + BitVec.ofNat 16 i) = byteAt expected i := by
  simp only [List.ext_getElem_iff, readBlockNow_length, true_and]
  refine forall_congr' fun i => ⟨fun h hi => ?_, fun h hi _ => ?_⟩
  · simpa [readBlockNow_eq_map, byteAt, hi] using h hi hi
  · simpa [readBlockNow_eq_map, byteAt, hi] using h hi

theorem ruleResponse_verify (b : Buf) (s : State) (a : Half) {expected : List Byte}
    (hlen : expected.length ≤ 256) :
    ruleResponse (.verify expected) (bufOverwrite b (readBlockNow s a expected.length)) =
      (if ∀ i < expected.length, readNow s (a + BitVec.ofNat 16 i) = byteAt expected i
        then 0x14 else 0x15, []) := by
  rw [ruleResponse, bufPrefix_readBlock _ _ _ _ hlen]
  simp only [readBlockNow_eq_iff]
  split <;> rfl

/-! ## Good cycles

Each statement is the request's plan, run by the rule for its primitive's good end. -/

/-- Settles O11. -/
theorem readByteAnswered : Obligations.ReadByteAnswered := by
  intro a s hq hok
  rw [exec_readByte, runCycle_planBus_read (by exact hq) (by decide) (by exact fun _ => hok)
    (ruleResponse_readByteResult _ _ a) (by simp)]
  rfl

theorem cyclesOk_one {s : State} (h : nextStatus s = .ok) : CyclesOk 1 s := by
  intro j hj
  obtain rfl := Nat.lt_one_iff.1 hj
  exact h

/-- Settles O12. -/
theorem writeByteAnswered : Obligations.WriteByteAnswered := by
  intro a d s hq hok
  rw [exec_writeByte, runCycle_planBus_write_ok (by exact hq) (by simp) (by exact cyclesOk_one hok)]
  rfl

/-- Settles O13. -/
theorem readAllAnswered : Obligations.ReadAllAnswered := by
  intro a size s hq hok
  have hclamp : min size.toNat 246 ≤ 246 := Nat.min_le_right _ _
  have hcycle (h0 : min size.toNat 246 ≠ 0) : nextStatus s = .ok := by
    refine hok fun hsize => h0 ?_
    rw [hsize]
    rfl
  rw [exec_readAll, runCycle_planBus_read (by exact hq) (by omega) (by exact hcycle)
    (ruleResponse_readAllResult _ _ a (by omega)) (by rw [readBlockNow_length]; omega)]
  rfl

/-- Settles O14. -/
theorem writeAllAnswered : Obligations.WriteAllAnswered := by
  intro a data s hq hlen hok
  rw [exec_writeAll, runCycle_planBus_write_ok (by exact hq) hlen (by exact cyclesOk_of hok rfl rfl)]
  rfl

/-- Settles O15. -/
theorem clearAnswered : Obligations.ClearAnswered := by
  intro size s hq hok
  have hclamp : min size.toNat 246 ≤ 246 := Nat.min_le_right _ _
  rw [exec_clear, runCycle_planBus_write_ok (by exact hq) (by rw [List.length_replicate]; omega)
    (by rw [List.length_replicate]; exact cyclesOk_of hok rfl rfl)]
  rfl

/-- Settles O16. -/
theorem verifyAnswered : Obligations.VerifyAnswered := by
  intro a expected s hq hlen hok
  have hcycle (h0 : expected.length ≠ 0) : nextStatus s = .ok :=
    hok (List.length_eq_zero_iff.not.1 h0)
  rw [exec_verify, runCycle_planBus_read (by exact hq) hlen (by exact hcycle)
    (ruleResponse_verify _ _ a (by omega)) (by simp)]
  rfl

/-- Settles O17. -/
theorem saveProfileAnswered : Obligations.SaveProfileAnswered := by
  intro id data s hq hid hdata hok
  rw [exec_saveProfile data s hid hdata, runCycle_planBus_write_ok (by exact hq) (by omega)
    (by rw [hdata]; exact cyclesOk_of hok rfl rfl)]
  rfl

/-- Settles O18. -/
theorem loadProfileAnswered : Obligations.LoadProfileAnswered := by
  intro id s hq hid hok
  rw [exec_loadProfile s hid, runCycle_planBus_read (by exact hq) (by decide) (by exact fun _ => hok)
    (ruleResponse_readAllResult _ _ _ (by decide)) (by rw [readBlockNow_length]; decide)]
  rfl

/-! ## Failed cycles -/

/-- Settles O21: each reading command's plan, run by the rule for a failed read cycle. -/
theorem failedReadNacked : Obligations.FailedReadNacked := by
  intro a size expected id s hq hf hsize hexp hlen hid
  have hclamp : min size.toNat 246 ≤ 246 := Nat.min_le_right _ _
  have hsize0 : min size.toNat 246 ≠ 0 := by
    have : size.toNat ≠ 0 := fun h => hsize (BitVec.eq_of_toNat_eq h)
    omega
  have hexp0 : expected.length ≠ 0 := List.length_eq_zero_iff.not.2 hexp
  rw [exec_readByte, exec_readAll, exec_verify, exec_loadProfile s hid,
    runCycle_planBus_read_fail (by exact hq) (by decide) (by decide) (by exact hf),
    runCycle_planBus_read_fail (by exact hq) (by omega) hsize0 (by exact hf),
    runCycle_planBus_read_fail (by exact hq) hlen hexp0 (by exact hf),
    runCycle_planBus_read_fail (by exact hq) (by decide) (by decide) (by exact hf)]
  exact ⟨rfl, rfl, rfl, rfl⟩

/-- Settles O22: each writing command's plan, run by the rule for a block write that fails at byte `k`. -/
theorem failedWriteNacked : Obligations.FailedWriteNacked := by
  intro a size data profile id d k s hq hf hlen hprofile hid
  have hclamp : min size.toNat 246 ≤ 246 := Nat.min_le_right _ _
  refine ⟨fun hk => ?_, fun hk => ?_, fun hk => ?_, fun hk => ?_⟩
  · subst hk
    rw [exec_writeByte, runCycle_planBus_write_fail (k := 0) (by exact hq) (by simp) (by simp)
      (by exact failsAt_of hf rfl rfl)]
    rfl
  · rw [exec_writeAll, runCycle_planBus_write_fail (by exact hq) hlen hk
      (by exact failsAt_of hf rfl rfl)]
    rfl
  · rw [exec_clear, runCycle_planBus_write_fail (by exact hq) (by rw [List.length_replicate]; omega)
      (by rwa [List.length_replicate]) (by exact failsAt_of hf rfl rfl)]
    rfl
  · rw [exec_saveProfile profile s hid hprofile, runCycle_planBus_write_fail (k := k) (by exact hq) (by omega)
      (by omega) (by exact failsAt_of hf rfl rfl)]
    rfl

/-! ## No bytes to move (R192) -/

theorem readDoneOk_zero (a : Half) (s : State) : readDoneOk a 0 s = { s with
    busStatus := .ok, blkIndex := 0, readDone := false, trace := s.trace ++ [.acqBus, .relBus] } := rfl

theorem writeDoneOk_nil (a : Half) (s : State) : writeDoneOk a [] s = { s with
    busStatus := .ok, blkIndex := 0, readDone := false, trace := s.trace ++ [.acqBus, .relBus] } := by
  simp [writeDoneOk, popStatuses, writeBlockNow, blockEvents]

/-- Settles O23: the good ends of the four primitives with no byte, where no cycle's status is asked for. -/
theorem zeroLengthNoCycle : Obligations.ZeroLengthNoCycle := by
  intro a s hq
  have hnone : CyclesOk 0 s := fun j hj => absurd hj (Nat.not_lt_zero j)
  have hread (h : (0 : Half) ≠ 0) : nextStatus s = .ok := absurd rfl h
  have hexp (h : ([] : List Byte) ≠ []) : nextStatus s = .ok := absurd rfl h
  have hzero : min (0 : Half).toNat 246 = 0 := rfl
  have hclear := clearAnswered 0 s hq hnone
  rw [hzero, List.replicate_zero] at hclear
  rw [readAllAnswered a 0 s hq hread, writeAllAnswered a [] s hq (by simp) hnone, hclear,
    verifyAnswered a [] s hq (by simp) hexp, hzero,
    List.length_nil, readDoneOk_zero, readDoneOk_zero, writeDoneOk_nil, writeDoneOk_nil]
  exact ⟨rfl, rfl, rfl, rfl⟩

end Sys2Proof.Proofs.Requests

/-! What a request leaves alone, what it sends, and what it depends on (42_command_dispatcher R160 to R164),
whatever the statuses of its bus cycles. -/

namespace Sys2Proof.Proofs.Outcomes
open Sys2Proof Sys2Proof.Machine Sys2Proof.Laws Sys2Proof.Safety Sys2Proof.Proofs.Steps
  Sys2Proof.Proofs.Locks Sys2Proof.Proofs.Responding Sys2Proof.Proofs.Turns Sys2Proof.Proofs.Sending
  Sys2Proof.Proofs.CommandDispatcher

/-! ## TX bytes of the events (R41, R45) -/

theorem txBytes_readEvents (a : Half) (data : List Byte) (st : CycleStatus) :
    txBytes (readEvents a data st) = [] := by
  simp [readEvents, txBytes]

theorem txBytes_writeFailEvents (a : Half) (d : Byte) : txBytes (writeFailEvents a d) = [] := rfl

theorem txBytes_writeEvents (a : Half) (d : Byte) : txBytes (writeEvents a d) = [] := rfl

theorem txBytes_blockEvents (a : Half) (data : List Byte) : txBytes (blockEvents a data) = [] := by
  unfold blockEvents
  induction data.zipIdx with
  | nil => rfl
  | cons p ps ih => rw [List.flatMap_cons, txBytes_append, txBytes_writeEvents, ih, List.append_nil]

theorem txBytes_sendEvents (frame : List Byte) : txBytes (sendEvents frame) = frame := by
  simp [sendEvents, txBytes, List.filterMap_map]

theorem txBytes_cons_acqBus (es : List Obs) : txBytes (.acqBus :: es) = txBytes es := rfl

theorem txBytes_relBus : txBytes [.relBus] = [] := rfl

/-! ## The end of a primitive (43_bus_gateway R186 to R192) -/

/-- The states in which a primitive started in `s` can end. -/
inductive PrimitiveEnd (s : State) : Primitive → State → Prop where
  | readOk (a : Half) (n : Nat) : PrimitiveEnd s (.readBlock a n) (readDoneOk a n s)
  | readFail (a : Half) (n : Nat) : PrimitiveEnd s (.readBlock a n) (readDoneFail a n s)
  | writeOk (a : Half) (data : List Byte) : PrimitiveEnd s (.writeBlock a data) (writeDoneOk a data s)
  | writeFail (a : Half) (data : List Byte) (k : Nat) (hk : k < data.length) :
      PrimitiveEnd s (.writeBlock a data) (writeDoneFail a data k s)

theorem busPlan_read_le {a : Half} {n : Nat} {rule : ReplyRule}
    (h : BusPlan (.readBlock a n) rule) : n ≤ 248 := by
  cases h with
  | readByte => decide
  | readAll _ hn => omega
  | verify _ hlen => exact hlen

theorem nextStatus_fail_of_not_ok {s : State} (h : nextStatus s ≠ .ok) : nextStatus s = .fail := by
  cases hst : nextStatus s with
  | ok => exact absurd hst h
  | fail => rfl

/-- From a quiet state a plan's primitive ends in one of its ways and a response that can be sent follows. -/
theorem runCycle_planBus {prim : Primitive} {rule : ReplyRule} {s : State} (hq : Quiet s)
    (hbus : BusPlan prim rule) : ∃ u code payload, PrimitiveEnd { s with plan := .bus prim rule } prim u ∧
      Sendable s.params code payload ∧ runCycle (planBus prim rule s) = responded code payload u := by
  have hnack := sendable_nack (errorCodeSent_busFailure s.params)
  cases prim with
  | readBlock a n =>
    have hn := busPlan_read_le hbus
    have hsend := ruleResponse_sendable s.params hbus (bufOverwrite s.dataBuf (readBlockNow s a n))
    by_cases hok : n ≠ 0 → nextStatus s = .ok
    · exact ⟨_, _, _, .readOk a n, hsend, Requests.runCycle_planBus_read hq hn hok rfl
        ((sendable_payload_length hsend).trans (by decide))⟩
    · obtain ⟨h0, hf⟩ := Classical.not_imp.1 hok
      replace hf := nextStatus_fail_of_not_ok hf
      exact ⟨_, _, _, .readFail a n, hnack, runCycle_planBus_read_fail hq hn h0 hf⟩
  | writeBlock a data =>
    cases hbus with
    | write _ hlen =>
      rcases cyclesOk_or_failsAt data.length s with hok | ⟨k, hk, hf⟩
      · exact ⟨_, _, _, .writeOk a data, .inl ⟨rfl, rfl⟩, runCycle_planBus_write_ok hq hlen hok⟩
      · exact ⟨_, _, _, .writeFail a data k hk, hnack, runCycle_planBus_write_fail hq hlen hk hf⟩

section
variable (a : Half) (n k : Nat) (data : List Byte) (s : State)

theorem readDoneOk_trace : (readDoneOk a n s).trace = s.trace ++
    if n = 0 then [.acqBus, .relBus]
    else .acqBus :: readEvents a (readBlockNow s a n) .ok ++ [.relBus] := by
  unfold readDoneOk
  split
  · rfl
  · exact List.append_assoc _ _ _

theorem readDoneOk_store : (readDoneOk a n s).store = s.store := by
  unfold readDoneOk
  split <;> rfl

theorem readDoneFail_trace : (readDoneFail a n s).trace = s.trace ++
    (.acqBus :: readEvents a (freeBytes n (s.draws + 1)) .fail ++ [.relBus]) :=
  List.append_assoc _ _ _

theorem writeDoneOk_trace : (writeDoneOk a data s).trace = s.trace ++
    (.acqBus :: blockEvents a data ++ [.relBus]) := List.append_assoc _ _ _

theorem writeDoneFail_trace : (writeDoneFail a data k s).trace = s.trace ++
    (.acqBus :: blockEvents a (data.take k) ++ writeFailEvents (blockAddr a k) (byteAt data k) ++
      [.relBus]) := by
  simp only [writeDoneFail, List.append_assoc]

end

/-- No end of a primitive adds a TX byte. -/
theorem PrimitiveEnd.txBytes_trace {s u : State} {prim : Primitive} (h : PrimitiveEnd s prim u) :
    txBytes u.trace = txBytes s.trace := by
  cases h with
  | readOk a n =>
    rw [readDoneOk_trace]
    split <;> simp [txBytes_append, txBytes_cons_acqBus, txBytes_readEvents, txBytes_relBus]
  | readFail a n =>
    simp [readDoneFail_trace, txBytes_append, txBytes_cons_acqBus, txBytes_readEvents, txBytes_relBus]
  | writeOk a data =>
    simp [writeDoneOk_trace, txBytes_append, txBytes_cons_acqBus, txBytes_blockEvents, txBytes_relBus]
  | writeFail a data k hk =>
    simp [writeDoneFail_trace, txBytes_append, txBytes_cons_acqBus, txBytes_blockEvents,
      txBytes_writeFailEvents, txBytes_relBus]

/-- No end of a primitive changes a cell that its write cycles do not reach (R57, R191). -/
theorem PrimitiveEnd.storeRead_other {s u : State} {prim : Primitive} (h : PrimitiveEnd s prim u)
    {b : Half} (hb : ∀ k < (writtenBlock prim).2,
      b ≠ deviceCell s.params (s.draws + 1 + k) (blockAddr (writtenBlock prim).1 k)) :
    storeRead u.store b = storeRead s.store b := by
  cases h with
  | readOk a n => rw [readDoneOk_store]
  | readFail a n => rfl
  | writeOk a data => exact storeRead_deviceWriteBlock_other _ _ _ _ _ _ hb
  | writeFail a data k hk =>
    have hbefore : ∀ j < (data.take k).length,
        b ≠ deviceCell s.params (s.draws + 1 + j) (blockAddr a j) := by
      intro j hj
      rw [List.length_take_of_le hk.le] at hj
      exact hb j (hj.trans hk)
    exact (storeRead_deviceWrite_other _ _ _ _ (hb k hk)).trans
      (storeRead_deviceWriteBlock_other _ _ _ _ _ _ hbefore)

/-- The registers that the end of a primitive can change. -/
theorem PrimitiveEnd.frame {s u : State} {prim : Primitive} (h : PrimitiveEnd s prim u) :
    ∃ db bs bi rd m an dr tr, u = { s with
      dataBuf := db, busStatus := bs, blkIndex := bi, readDone := rd, store := m, answers := an,
      draws := dr, trace := tr } := by
  cases h with
  | readOk a n => unfold readDoneOk; split <;> exact ⟨_, _, _, _, _, _, _, _, rfl⟩
  | readFail a n => exact ⟨_, _, _, _, _, _, _, _, rfl⟩
  | writeOk a data => rw [writeDoneOk, popStatuses_eq]; exact ⟨_, _, _, _, _, _, _, _, rfl⟩
  | writeFail a data k hk => rw [writeDoneFail, popStatuses_eq]; exact ⟨_, _, _, _, _, _, _, _, rfl⟩

/-! ## The end of a request -/

/-- The states in which a request can end that was started in `s`: a response that can be sent has been
sent, from the end of its primitive or, with nothing done, for the Nack of InvalidCommand. -/
inductive RequestEnd (i : Instr) (s : State) : State → Prop where
  | primitive (code : Byte) (plen : Nat) (addr size : Half) (id : Byte) (prim : Primitive)
      (rule : ReplyRule) (u : State) (respCode : Byte) (payload : List Byte)
      (hblock : storedBlock i = writtenBlock prim) (hsend : Sendable s.params respCode payload)
      (hend : PrimitiveEnd { withRequest code plen addr size id s with plan := .bus prim rule } prim u) :
      RequestEnd i s (responded respCode payload u)
  | nack (code : Byte) (plen : Nat) (addr size : Half) (id : Byte) :
      RequestEnd i s (responded Config.codeNack [Config.errInvalidCommand]
        { withRequest code plen addr size id s with
          plan := .reply Config.codeNack [Config.errInvalidCommand] })

theorem canSend_of_quiet {s : State} (h : Quiet s) : CanSend s := by
  obtain ⟨hs, -, htr, -, htl, hc, hset, -⟩ := h
  exact ⟨hs, htr, htl, hc, hset⟩

theorem not_held_of_quiet {s : State} (h : Quiet s) : s.busLock ≠ .heldBy .dispatcher := by
  obtain ⟨-, -, -, hl, -⟩ := h
  simp [hl]

theorem exec_requestEnd {i : Instr} {s : State} (hq : Quiet s) (hi : isRequest i = true)
    (hwf : i.wellFormed = true) : ∃ t, exec i s = .next t ∧ RequestEnd i s t := by
  cases exec_request hi with
  | plan prim rule hplan hblock hruns =>
    obtain ⟨code, plen, addr, size, id, hexec⟩ := hruns s
    have hq' : Quiet (withRequest code plen addr size id s) := hq
    obtain ⟨u, respCode, payload, hend, hsend, hrun⟩ := runCycle_planBus hq' (hplan hwf)
    rw [hrun] at hexec
    exact ⟨_, hexec, .primitive _ _ _ _ _ _ _ _ _ _ hblock hsend hend⟩
  | invalidCommand _ hraises =>
    obtain ⟨code, plen, addr, size, id, hexec⟩ := hraises s
    have hq' : Quiet (withRequest code plen addr size id s) := hq
    rw [runCycle_raiseNack _ _ (canSend_of_quiet hq'), nacked_of_not_held (not_held_of_quiet hq')] at hexec
    exact ⟨_, hexec, .nack _ _ _ _ _⟩

/-- Settles O24: the end of the request's primitive and the sending of its response each write only the
registers named. -/
theorem requestFrame : Obligations.RequestFrame := by
  intro i s hq hi hwf
  obtain ⟨t, hexec, hend⟩ := exec_requestEnd hq hi hwf
  refine ⟨t, hexec, ?_⟩
  cases hend with
  | primitive _ _ _ _ _ prim rule u _ _ hblock _ hend =>
    refine ⟨fun b hb => hend.storeRead_other (by rwa [hblock] at hb), ?_⟩
    obtain ⟨_, _, _, _, _, _, _, _, rfl⟩ := hend.frame
    rfl
  | nack => exact ⟨fun _ _ => rfl, rfl⟩

/-! ## One response (R160, R161, R214) -/

/-- `t` ends the protocol cycle of `s`: the slot is free, and one response that SCFD can send has been added
to the TX bytes. -/
def Responds (s t : State) : Prop :=
  t.dispState = .idle ∧ t.frameReady = false ∧
  ∃ code payload, Sendable s.params code payload ∧
    txBytes t.trace = txBytes s.trace ++ buildFrame code payload

theorem txBytes_responded (code : Byte) (payload : List Byte) (s : State) :
    txBytes (responded code payload s).trace = txBytes s.trace ++ buildFrame code payload := by
  rw [responded, txBytes_append, txBytes_sendEvents]

theorem responds_responded {s u : State} {code : Byte} {payload : List Byte}
    (hsend : Sendable s.params code payload) (htx : txBytes u.trace = txBytes s.trace) :
    Responds s (responded code payload u) := by
  refine ⟨rfl, rfl, code, payload, hsend, ?_⟩
  rw [txBytes_responded, htx]

theorem RequestEnd.responds {i : Instr} {s t : State} (h : RequestEnd i s t) : Responds s t := by
  cases h with
  | primitive _ _ _ _ _ _ _ _ _ _ _ hsend hend => exact responds_responded hsend hend.txBytes_trace
  | nack => exact responds_responded (sendable_nack (errorCodeSent_invalidCommand _)) rfl

theorem quiet_prepare {s : State} (h : Quiet s) : Quiet (prepare s) := by
  obtain ⟨hs, h⟩ := h
  unfold prepare
  split <;> exact ⟨congrArg List.tail hs, h⟩

theorem responds_of_prepare {s t : State} (h : Responds (prepare s) t) : Responds s t := by
  unfold prepare at h
  split at h <;> exact h

/-- The step from `Decode` in a quiet state, for a request and for a payload that is rejected (R145). -/
theorem step_responds_of_decode {s : State} (hq : Quiet s) (hd : s.dispState = .decode) :
    ∃ t, step s = .next t ∧ Responds s t := by
  have hq' := quiet_prepare hq
  obtain ⟨hs, -, -, -, -, hc, hset, -⟩ := hq
  have hrun {i : Instr} (hf : fetchDispatcher s = .run i) : step s = exec i (prepare s) :=
    step_of_fetch_run ((fetch_of_no_schedule hs).trans hf)
  cases hi : slotDecoded s with
  | instr i =>
    obtain ⟨hreq, hwf⟩ := decodeCommand_wellFormed (framePayload_slotFrame_length s) hi
    obtain ⟨t, hexec, hend⟩ := exec_requestEnd hq' hreq hwf
    exact ⟨t, (hrun (fetchDispatcher_of_request hset hc hd hi)).trans hexec,
      responds_of_prepare hend.responds⟩
  | reject r =>
    refine ⟨_, (hrun (fetchDispatcher_of_rejected hset hc hd hi)).trans
      (exec_invalidCommand (canSend_of_quiet hq')), responds_of_prepare ?_⟩
    rw [nacked_of_not_held (not_held_of_quiet hq')]
    exact responds_responded (sendable_nack (errorCodeSent_invalidCommand _)) rfl

theorem step_of_idle {s : State} (hq : Quiet s) (hd : s.dispState = .idle) (hr : s.frameReady = true) :
    step s = .next { s with dispState := .validate } := by
  obtain ⟨hs, -, -, -, -, hc, hset, -⟩ := hq
  have hf : fetch s = .advance :=
    (fetch_of_no_schedule hs).trans (fetchDispatcher_of_waiting hset hc (.inl hd))
  rw [step_of_fetch_advance hf, turn_of_no_schedule hs]
  simp [dispatcherTurn, hset, hc, hd, hr]

/-- Settles O40: `Idle` to `Validate`, then `Decode` and the request's answer, or the drop. -/
theorem oneResponsePerRequest : Obligations.OneResponsePerRequest := by
  intro s hq hd hr
  have hidle := step_of_idle hq hd hr
  obtain ⟨hs, -, -, -, -, hc, hset, -⟩ := id hq
  have hgate := validationGate { s with dispState := .validate } hs hc hset rfl
  constructor
  · intro hv
    obtain ⟨t, hstep, hidle', hfree, hresp⟩ :=
      step_responds_of_decode (s := { s with dispState := .decode }) hq rfl
    exact ⟨_, _, t, hidle, hgate.1 hv, hstep, hidle', hfree, hresp⟩
  · intro hv
    exact ⟨_, _, hidle, hgate.2 hv, rfl, rfl, rfl⟩

/-! ## What a request depends on (R164) -/

/-- The two states hold the same store, the same device and the same statuses and free values to come. -/
structure SameInputs (s1 s2 : State) : Prop where
  store : s1.store = s2.store
  storeSize : s1.params.storeSize = s2.params.storeSize
  answers : s1.answers = s2.answers
  draws : s1.draws = s2.draws

/-- The same events have been added to the traces of `s1` and `s2`, and the stores are equal. -/
def SameOutcome (s1 s2 t1 t2 : State) : Prop :=
  t1.store = t2.store ∧ ∃ es, t1.trace = s1.trace ++ es ∧ t2.trace = s2.trace ++ es

/-- A response of the same events, from states with the same outcome. -/
theorem SameOutcome.responded {s1 s2 t1 t2 : State} (h : SameOutcome s1 s2 t1 t2) (code : Byte)
    (payload : List Byte) :
    SameOutcome s1 s2 (Safety.responded code payload t1) (Safety.responded code payload t2) := by
  obtain ⟨hstore, es, h1, h2⟩ := h
  refine ⟨hstore, es ++ sendEvents (buildFrame code payload), ?_, ?_⟩
  · rw [Safety.responded, h1, List.append_assoc]
  · rw [Safety.responded, h2, List.append_assoc]

/-- Of the parameters the device depends on STORE_SIZE alone. -/
theorem inDevice_congr {p q : Params} (h : p.storeSize = q.storeSize) : inDevice p = inDevice q := by
  funext a
  rw [Bool.eq_iff_iff, inDevice_iff, inDevice_iff, h]

theorem deviceRead_congr {p q : Params} (h : p.storeSize = q.storeSize) :
    deviceRead p = deviceRead q := by
  unfold deviceRead
  rw [inDevice_congr h]

theorem deviceWrite_congr {p q : Params} (h : p.storeSize = q.storeSize) :
    deviceWrite p = deviceWrite q := by
  unfold deviceWrite deviceCell
  rw [inDevice_congr h]

/-- The response of a read depends on the bytes read alone, whatever `data_buf` held before. -/
theorem ruleResponse_overwrite {a : Half} {n : Nat} {rule : ReplyRule}
    (hbus : BusPlan (.readBlock a n) rule) {data : List Byte} (hlen : data.length = n) (b c : Buf) :
    ruleResponse rule (bufOverwrite b data) = ruleResponse rule (bufOverwrite c data) := by
  have hfits : data.length ≤ 256 := by
    have := busPlan_read_le hbus
    omega
  cases hbus with
  | readByte =>
    simp only [ruleResponse, bufGet_overwrite _ _ _ hfits, hlen, Nat.zero_lt_one, if_true]
  | readAll => simp only [ruleResponse, ← hlen, bufPrefix_overwrite _ _ hfits]
  | verify => simp only [ruleResponse, ← hlen, bufPrefix_overwrite _ _ hfits]

section
variable {s1 s2 : State} (h : SameInputs s1 s2)
include h

theorem SameInputs.readBlockNow_eq (a : Half) (n : Nat) : readBlockNow s1 a n = readBlockNow s2 a n := by
  simp only [readBlockNow, deviceReadBlock, deviceRead_congr h.storeSize, h.draws, h.store]

theorem SameInputs.writeBlockNow_eq (a : Half) (data : List Byte) :
    writeBlockNow s1 a data = writeBlockNow s2 a data := by
  simp only [writeBlockNow, deviceWriteBlock, deviceWrite_congr h.storeSize, h.draws, h.store]

theorem SameInputs.readDoneOk (a : Half) (n : Nat) :
    SameOutcome s1 s2 (readDoneOk a n s1) (readDoneOk a n s2) := by
  refine ⟨?_, _, readDoneOk_trace a n s1, ?_⟩
  · rw [readDoneOk_store, readDoneOk_store, h.store]
  · rw [readDoneOk_trace, h.readBlockNow_eq]

theorem SameInputs.readDoneFail (a : Half) (n : Nat) :
    SameOutcome s1 s2 (readDoneFail a n s1) (readDoneFail a n s2) := by
  refine ⟨h.store, _, readDoneFail_trace a n s1, ?_⟩
  rw [readDoneFail_trace, h.draws]

theorem SameInputs.writeDoneOk (a : Half) (data : List Byte) :
    SameOutcome s1 s2 (writeDoneOk a data s1) (writeDoneOk a data s2) :=
  ⟨h.writeBlockNow_eq a data, _, writeDoneOk_trace a data s1, writeDoneOk_trace a data s2⟩

theorem SameInputs.writeDoneFail (a : Half) (data : List Byte) (k : Nat) :
    SameOutcome s1 s2 (writeDoneFail a data k s1) (writeDoneFail a data k s2) := by
  refine ⟨?_, _, writeDoneFail_trace a k data s1, writeDoneFail_trace a k data s2⟩
  simp only [Safety.writeDoneFail, deviceWrite_congr h.storeSize, h.writeBlockNow_eq, h.draws]

theorem SameInputs.with_plan (plan : Plan) :
    SameInputs { s1 with plan := plan } { s2 with plan := plan } :=
  ⟨h.store, h.storeSize, h.answers, h.draws⟩

/-- Each end of a primitive is chosen by the statuses to come, which are the same. -/
theorem SameInputs.runCycle_planBus (hq1 : Quiet s1) (hq2 : Quiet s2) {prim : Primitive}
    {rule : ReplyRule} (hbus : BusPlan prim rule) :
    SameOutcome s1 s2 (runCycle (planBus prim rule s1)) (runCycle (planBus prim rule s2)) := by
  have hplan := h.with_plan (.bus prim rule)
  cases prim with
  | readBlock a n =>
    have hn := busPlan_read_le hbus
    have hnext : nextStatus s1 = nextStatus s2 := nextStatus_congr h.answers h.draws
    by_cases hok : n ≠ 0 → nextStatus s1 = .ok
    · have hp : (ruleResponse rule (bufOverwrite s1.dataBuf (readBlockNow s1 a n))).2.length ≤ 252 :=
        (sendable_payload_length (ruleResponse_sendable s1.params hbus _)).trans (by decide)
      have hch : ruleResponse rule (bufOverwrite s2.dataBuf (readBlockNow s2 a n)) =
          ruleResponse rule (bufOverwrite s1.dataBuf (readBlockNow s1 a n)) := by
        rw [h.readBlockNow_eq]
        exact ruleResponse_overwrite hbus (Requests.readBlockNow_length _ _ _) _ _
      rw [Requests.runCycle_planBus_read hq1 hn hok rfl hp,
        Requests.runCycle_planBus_read hq2 hn (hnext ▸ hok) hch hp]
      exact (hplan.readDoneOk a n).responded _ _
    · obtain ⟨h0, hf⟩ := Classical.not_imp.1 hok
      replace hf := nextStatus_fail_of_not_ok hf
      rw [runCycle_planBus_read_fail hq1 hn h0 hf,
        runCycle_planBus_read_fail hq2 hn h0 (hnext.symm.trans hf)]
      exact (hplan.readDoneFail a n).responded _ _
  | writeBlock a data =>
    cases hbus with
    | write _ hlen =>
      rcases cyclesOk_or_failsAt data.length s1 with hok | ⟨k, hk, hf⟩
      · rw [runCycle_planBus_write_ok hq1 hlen hok,
          runCycle_planBus_write_ok hq2 hlen (cyclesOk_of hok h.answers h.draws)]
        exact (hplan.writeDoneOk a data).responded _ _
      · rw [runCycle_planBus_write_fail hq1 hlen hk hf,
          runCycle_planBus_write_fail hq2 hlen hk (failsAt_of hf h.answers h.draws)]
        exact (hplan.writeDoneFail a data k).responded _ _

end

/-- Settles O25: both states run the same plan, or raise the same error, on the same inputs. -/
theorem dispatchIsAFunction : Obligations.DispatchIsAFunction := by
  intro i s1 s2 hq1 hq2 hi hwf hstore hsize hanswers hdraws
  cases exec_request hi with
  | plan prim rule hplan _ hruns =>
    obtain ⟨c1, l1, a1, z1, i1, hexec1⟩ := hruns s1
    obtain ⟨c2, l2, a2, z2, i2, hexec2⟩ := hruns s2
    have hin : SameInputs (withRequest c1 l1 a1 z1 i1 s1) (withRequest c2 l2 a2 z2 i2 s2) :=
      ⟨hstore, hsize, hanswers, hdraws⟩
    obtain ⟨hsame, es, htrace1, htrace2⟩ := hin.runCycle_planBus hq1 hq2 (hplan hwf)
    exact ⟨_, _, es, hexec1, hexec2, hsame, htrace1, htrace2⟩
  | invalidCommand _ hraises =>
    obtain ⟨c1, l1, a1, z1, i1, hexec1⟩ := hraises s1
    obtain ⟨c2, l2, a2, z2, i2, hexec2⟩ := hraises s2
    have hq1' : Quiet (withRequest c1 l1 a1 z1 i1 s1) := hq1
    have hq2' : Quiet (withRequest c2 l2 a2 z2 i2 s2) := hq2
    rw [runCycle_raiseNack _ _ (canSend_of_quiet hq1'), nacked_of_not_held (not_held_of_quiet hq1')]
      at hexec1
    rw [runCycle_raiseNack _ _ (canSend_of_quiet hq2'), nacked_of_not_held (not_held_of_quiet hq2')]
      at hexec2
    exact ⟨_, _, _, hexec1, hexec2, hstore, rfl, rfl⟩

end Sys2Proof.Proofs.Outcomes

/-! What is written is read back (20_memory R52, R61, R62; 44_profile_store R203): in the store, and through
the requests. -/

namespace Sys2Proof.Proofs.ReadBack
open Sys2Proof Sys2Proof.Machine Sys2Proof.Laws Sys2Proof.Safety Sys2Proof.Proofs.Requests
  Sys2Proof.Proofs.Turns Sys2Proof.Proofs.Outcomes Sys2Proof.Proofs.ProfileStore

/-! ## The store -/

theorem deviceRead_deviceWriteBlock {p : Params} {a : Half} {data : List Byte}
    (hlen : data.length ≤ 65536) (hin : ∀ k < data.length, inDevice p (blockAddr a k) = true)
    (n n' : Nat) (m : Store) {k : Nat} (hk : k < data.length) :
    deviceRead p n' (deviceWriteBlock p n m a data) (blockAddr a k) = byteAt data k := by
  have hoffset : (blockAddr a k - a).toNat = k := (eq_blockAddr_iff a _ (by omega)).1 rfl
  rw [deviceRead_inside (hin k hk), storeRead_deviceWriteBlock p n m a _ data hlen hin, hoffset,
    if_pos hk]

theorem storeRead_deviceWriteBlock_outside {p : Params} {a : Half} {data : List Byte}
    (hin : ∀ k < data.length, inDevice p (blockAddr a k) = true) (n : Nat) (m : Store) {b : Half}
    (hb : ∀ k < data.length, b ≠ blockAddr a k) :
    storeRead (deviceWriteBlock p n m a data) b = storeRead m b := by
  refine storeRead_deviceWriteBlock_other p n m a b data fun k hk => ?_
  rw [deviceCell_inside (hin k hk)]
  exact hb k hk

/-- Settles O57: the block inside the device, the cells its cycles do not reach, and the whole device. -/
theorem readAfterBlockWrite : Obligations.ReadAfterBlockWrite := by
  intro p n n' m a data hlen
  refine ⟨fun hin => ⟨fun k hk => deviceRead_deviceWriteBlock hlen hin n n' m hk,
    fun b hb => storeRead_deviceWriteBlock_outside hin n m hb⟩,
    fun b hb => storeRead_deviceWriteBlock_other p n m a b data hb,
    fun hsize b => inDevice_of_full hsize b⟩

/-! ## One request after another -/

/-- `s'` is `s` with the registers of a request and a plan. -/
def Latched (s s' : State) : Prop :=
  ∃ code plen addr size id plan, s' = { s with
    reqCode := code, reqPlen := plen, reqAddr := addr, reqSize := size, reqId := id, plan := plan }

theorem Latched.trace {s s' : State} (h : Latched s s') : s'.trace = s.trace := by
  obtain ⟨_, _, _, _, _, _, rfl⟩ := h
  rfl

/-- The state after a block write that was answered Ack. -/
def afterWrite (a : Half) (data : List Byte) (s : State) : State :=
  responded 0x10 [] (writeDoneOk a data s)

section
variable {a : Half} {data : List Byte} {s s' : State} (hs : Latched s s')
include hs

theorem afterWrite_quiet (hq : Quiet s) : Quiet (afterWrite a data s') := by
  obtain ⟨_, _, _, _, _, _, rfl⟩ := hs
  rw [afterWrite, writeDoneOk, popStatuses_eq]
  exact hq

theorem afterWrite_nextStatus (hok : CyclesOk (data.length + 1) s) :
    nextStatus (afterWrite a data s') = .ok := by
  have hlast := hok data.length (Nat.lt_succ_self _)
  obtain ⟨_, _, _, _, _, _, rfl⟩ := hs
  rw [popStatuses_eq] at hlast
  rw [afterWrite, writeDoneOk, popStatuses_eq]
  exact nextStatus_of hlast rfl rfl

theorem afterWrite_store : (afterWrite a data s').store = writeBlockNow s a data := by
  obtain ⟨_, _, _, _, _, _, rfl⟩ := hs
  rfl

theorem afterWrite_params : (afterWrite a data s').params = s.params := by
  obtain ⟨_, _, _, _, _, _, rfl⟩ := hs
  rw [afterWrite, writeDoneOk, popStatuses_eq]
  rfl

/-- A block read of the same addresses finds what was written. -/
theorem readBlockNow_afterWrite (hlen : data.length ≤ 65536)
    (hin : ∀ k < data.length, inDevice s.params (blockAddr a k) = true) :
    readBlockNow (afterWrite a data s') a data.length = data := by
  rw [readBlockNow_eq_iff]
  intro k hk
  rw [readNow, afterWrite_params hs, afterWrite_store hs]
  exact deviceRead_deviceWriteBlock hlen hin _ _ _ hk

/-- The bytes sent for a block write and the block read after it: Ack, and the bytes read. -/
theorem txBytes_read_afterWrite {t : State} (ht : Latched (afterWrite a data s') t) (n : Nat)
    (payload : List Byte) : txBytes (responded 0x13 payload (readDoneOk a n t)).trace =
      txBytes s.trace ++ buildFrame 0x10 [] ++ buildFrame 0x13 payload := by
  rw [txBytes_responded, (PrimitiveEnd.readOk a n).txBytes_trace, ht.trace, afterWrite,
    txBytes_responded, (PrimitiveEnd.writeOk a data).txBytes_trace, hs.trace]

end

/-- Settles O59: the read's answer in the state after the write. -/
theorem writeAllThenReadAll : Obligations.WriteAllThenReadAll := by
  intro a data s hq hlen hin hok
  have hsize : min (BitVec.ofNat 16 data.length).toNat 246 = data.length := by
    rw [BitVec.toNat_ofNat]
    omega
  obtain ⟨s', hs, hwrite⟩ : ∃ s', Latched s s' ∧
      exec (.writeAll a data) s = .next (afterWrite a data s') :=
    ⟨_, ⟨_, _, _, _, _, _, rfl⟩,
      writeAllAnswered a data s hq (by omega) fun j hj => hok j (by omega)⟩
  have hread := readAllAnswered a (BitVec.ofNat 16 data.length) _ (afterWrite_quiet hs hq)
    fun _ => afterWrite_nextStatus (a := a) hs hok
  rw [hsize, readBlockNow_afterWrite hs (by omega) hin] at hread
  exact ⟨_, _, hwrite, hread, txBytes_read_afterWrite hs ⟨_, _, _, _, _, _, rfl⟩ _ _⟩

/-- Settles O60: the read's answer in the state after the write, and no address of another profile in the
block written. -/
theorem saveThenLoad : Obligations.SaveThenLoad := by
  intro id data s hq hsize hid hdata hok
  have hin : ∀ k < data.length, inDevice s.params (blockAddr (profileAddress id) k) = true := by
    intro k hk
    have hrange := profileByte_mem_range hid (hdata ▸ hk)
    rw [inDevice_iff]
    omega
  obtain ⟨s', hs, hwrite⟩ : ∃ s', Latched s s' ∧
      exec (.saveProfile id data) s = .next (afterWrite (profileAddress id) data s') := by
    rw [profileAddress_eq]
    exact ⟨_, ⟨_, _, _, _, _, _, rfl⟩,
      saveProfileAnswered id data s hq hid hdata fun j hj => hok j (by omega)⟩
  have hread := loadProfileAnswered id _ (afterWrite_quiet hs hq) hid
    (afterWrite_nextStatus (a := profileAddress id) (data := data) hs (by rwa [hdata]))
  rw [← profileAddress_eq, ← hdata, readBlockNow_afterWrite hs (by omega) hin] at hread
  refine ⟨_, _, hwrite, hread, txBytes_read_afterWrite hs ⟨_, _, _, _, _, _, rfl⟩ _ _, ?_⟩
  intro q i hq4 hne hi
  have hother : ∀ k < data.length,
      blockAddr (profileAddress q) i ≠ blockAddr (profileAddress id) k := fun k hk heq =>
    hne (profileByte_injective hq4 hid hi (hdata ▸ hk) heq).1
  rw [responded, readDoneOk_store]
  exact (congrArg (storeRead · _) (afterWrite_store hs)).trans
    (storeRead_deviceWriteBlock_outside hin _ _ hother)

end Sys2Proof.Proofs.ReadBack
